-- ==== Sys2Proof/Word.lean ====
section
/-! DEFINITION. The word types of the block: bytes (R9 `BYTE_W`), the 16-bit words of the command stream (R107), and
the 5-bit code of a control point (R24). -/

namespace Sys2Proof

/-- One byte: a data byte, the address operand, the DATA field, a result byte (R9, R37, R99). -/
abbrev Byte := BitVec 8

/-- One word of the command stream; "Word size is always 16 bits" (R107). -/
abbrev Word := BitVec 16

/-- The code of a control point, the value of the 5-bit register `ctl` (R24). -/
abbrev Code := BitVec 5

end Sys2Proof
end

