-- ==== Sys2Proof/Syntax.lean ====
section
/-! DEFINITION. The abstract syntax (R91) and the ONE inductive `Instr`: one constructor for each of the 76 rows of
spec/opcode_table.json. The commands carry the terms of R91, with lists and lengths unbounded as there; the operand
words, address bytes, result bytes, control points and micro-operations carry the fields their format gives them. -/

namespace Sys2Proof

/-- Direction of an operation: bit 0 is Write, bit 1 is Read (R91). -/
inductive Dir
  | write
  | read
  deriving DecidableEq, Repr, Inhabited

/-- Duty cycle of Fast mode, "2:1" or "16:9" (R91). -/
inductive Duty
  | duty2to1
  | duty16to9
  deriving DecidableEq, Repr, Inhabited

/-- The `kind` bit of the mode word (R93). -/
inductive SpeedKind
  | standard
  | fast
  deriving DecidableEq, Repr, Inhabited

/-- Bus speed: "either Standard{frequency} or Fast{frequency, duty_cycle}" (R22, R91). -/
inductive Mode
  | standard (frequency : Nat)
  | fast (frequency : Nat) (duty : Duty)
  deriving DecidableEq, Repr, Inhabited

/-- The frequency operand of a Mode, in Hz. -/
def Mode.frequency : Mode → Nat
  | .standard f => f
  | .fast f _ => f

/-- One Operation of a sequence (R91): a byte slice to send, or a buffer, given by its length, to fill. -/
inductive Operation
  | write (bytes : List Byte)
  | read (len : Nat)
  deriving DecidableEq, Repr, Inhabited

/-- The direction of an Operation. -/
def Operation.dir : Operation → Dir
  | .write _ => .write
  | .read _ => .read

/-- The number of bytes of an Operation's slice or buffer (`len(op)` of R214). -/
def Operation.length : Operation → Nat
  | .write bs => bs.length
  | .read n => n

/-- The phase of a NoAcknowledge (R250); also the tag a wait gives it (R26). -/
inductive Phase
  | address
  | data
  | unknown
  deriving DecidableEq, Repr, Inhabited

/-- The error taxonomy (R250), eight values. -/
inductive Err
  | overrun
  | noAcknowledge (phase : Phase)
  | timeout
  | bus
  | crc
  | arbitrationLoss
  deriving DecidableEq, Repr, Inhabited

/-- What a command ends with (R91). -/
inductive Result
  | ok
  | err (e : Err)
  deriving DecidableEq, Repr, Inhabited

/-- The seven waits (R26). -/
inductive Wait
  | idle
  | sreq
  | started
  | addr
  | txe
  | txc
  | rx
  deriving DecidableEq, Repr, Inhabited

/-- The instructions: one constructor per row of spec/opcode_table.json, in the table's order. -/
inductive Instr
  -- format H: the six commands (R91, R96)
  | new (mode : Mode) (clockHz : Nat) (alert : Bool)
  | read (addr : Byte) (len : Nat)
  | write (addr : Byte) (bytes : List Byte)
  | writeRead (addr : Byte) (bytes : List Byte) (len : Nat)
  | transaction (addr : Byte) (ops : List Operation)
  | release
  -- format H: the ten reserved opcodes (R100, R101), with the twelve bits below the opcode
  | reservedOpc0 (low : BitVec 12)
  | reservedOpc7 (low : BitVec 12)
  | reservedOpc8 (low : BitVec 12)
  | reservedOpc9 (low : BitVec 12)
  | reservedOpcA (low : BitVec 12)
  | reservedOpcB (low : BitVec 12)
  | reservedOpcC (low : BitVec 12)
  | reservedOpcD (low : BitVec 12)
  | reservedOpcE (low : BitVec 12)
  | reservedOpcF (low : BitVec 12)
  -- formats M, N, D: the operand words of the command stream (R93, R95, R94)
  | modeWord (kind : SpeedKind) (duty : Duty) (alert : Bool)
  | countWord (nops : BitVec 16)
  | opWrite (len : BitVec 15)
  | opRead (len : BitVec 15)
  -- format W8: the address byte (R98)
  | addrByteW (addr : BitVec 7)
  | addrByteR (addr : BitVec 7)
  -- format R8: the result bytes (R99)
  | resOk
  | resErrOverrun
  | resErrNoackAddress
  | resErrNoackData
  | resErrNoackUnknown
  | resErrTimeout
  | resErrBus
  | resErrCrc
  | resErrArbitrationLoss
  -- format CTL: the 28 control points and the four reserved codes (R24)
  | ctlRest
  | ctlNewEnable
  | ctlNewReset
  | ctlNewApply
  | ctlIdlePoll
  | ctlIdleClear
  | ctlIdleCond
  | ctlSreqAckEn
  | ctlSreqStart
  | ctlSreqPoll
  | ctlSreqClear
  | ctlStartedPoll
  | ctlStartedClear
  | ctlStartedCond
  | ctlAddrWrite
  | ctlAddrPoll
  | ctlAddrClear
  | ctlTxePoll
  | ctlTxeClear
  | ctlTxWrite
  | ctlTxcPoll
  | ctlTxcClear
  | ctlRxPoll
  | ctlRxClear
  | ctlRxRead
  | ctlArmLast
  | ctlGenStop
  | ctlAddrAckclr
  | ctlReserved1C
  | ctlReserved1D
  | ctlReserved1E
  | ctlReserved1F
  -- format UOP: the micro-operations (R104); POLL_ERRORS carries the wait that called it
  | pollErrors (caller : Wait)
  | waitStopIdle
  | setAck
  | genStart
  | uopArmLast
  | uopGenStop
  | addressPhase
  | sendByte
  | recvByte
  | writeBytes
  | readBytes
  | writeWoPrepare
  | readWoPrepare
  deriving DecidableEq, Repr, Inhabited

/-- The formats of spec/opcode_table.json. -/
inductive Format
  | h
  | m
  | n
  | d
  | w8
  | r8
  | ctl
  | uop
  deriving DecidableEq, Repr, Inhabited

/-- The format of an instruction's row. -/
def Instr.format : Instr → Format
  | .new _ _ _ | .read _ _ | .write _ _ | .writeRead _ _ _ | .transaction _ _ | .release => .h
  | .reservedOpc0 _ | .reservedOpc7 _ | .reservedOpc8 _ | .reservedOpc9 _ | .reservedOpcA _ => .h
  | .reservedOpcB _ | .reservedOpcC _ | .reservedOpcD _ | .reservedOpcE _ | .reservedOpcF _ => .h
  | .modeWord _ _ _ => .m
  | .countWord _ => .n
  | .opWrite _ | .opRead _ => .d
  | .addrByteW _ | .addrByteR _ => .w8
  | .resOk | .resErrOverrun | .resErrNoackAddress | .resErrNoackData | .resErrNoackUnknown => .r8
  | .resErrTimeout | .resErrBus | .resErrCrc | .resErrArbitrationLoss => .r8
  | .ctlRest | .ctlNewEnable | .ctlNewReset | .ctlNewApply | .ctlIdlePoll | .ctlIdleClear | .ctlIdleCond => .ctl
  | .ctlSreqAckEn | .ctlSreqStart | .ctlSreqPoll | .ctlSreqClear | .ctlStartedPoll | .ctlStartedClear => .ctl
  | .ctlStartedCond | .ctlAddrWrite | .ctlAddrPoll | .ctlAddrClear | .ctlTxePoll | .ctlTxeClear => .ctl
  | .ctlTxWrite | .ctlTxcPoll | .ctlTxcClear | .ctlRxPoll | .ctlRxClear | .ctlRxRead | .ctlArmLast => .ctl
  | .ctlGenStop | .ctlAddrAckclr | .ctlReserved1C | .ctlReserved1D | .ctlReserved1E | .ctlReserved1F => .ctl
  | .pollErrors _ | .waitStopIdle | .setAck | .genStart | .uopArmLast | .uopGenStop | .addressPhase => .uop
  | .sendByte | .recvByte | .writeBytes | .readBytes | .writeWoPrepare | .readWoPrepare => .uop

end Sys2Proof
end

