-- ==== Sys2Proof/WellFormed.lean ====
section
/-! DEFINITION. The named checks of R101 that a command stream must pass, as far as they concern the stream itself
(`handle_fits` and `at_rest` concern the state: Machine/Ops.lean), and the limits of the binary encoding (R9, D22),
which are no limits of the machine: the abstract syntax is unbounded. -/

namespace Sys2Proof

/-- The named checks of R101 on the stream. `hdrZero` and `dirFits` (and `modeZero` inside a NEW) can fail only in a
stream of words: no term of the abstract syntax spells such a stream, so only the decoder answers them. -/
inductive Check
  /-- `opc` is 1 to 6. -/
  | opcKnown
  /-- bits 11:8 of the header are zero, and `addr = 0` for NEW and RELEASE. -/
  | hdrZero
  /-- `addr[7] = 0` for READ, WRITE, WRITE_READ, TRANSACTION. -/
  | addr7
  /-- the descriptors of READ, WRITE and WRITE_READ have the direction the command asks. -/
  | dirFits
  /-- bits 12:0 of the mode word are zero, and `duty = 0` when `kind = 0`. -/
  | modeZero
  /-- `frequency > 0`. -/
  | freqPos
  /-- a result byte that R99 leaves reserved (93_implementation_defined.md U19). -/
  | resultKnown
  /-- no micro-operation enters at this control point (R104). -/
  | uopKnown
  deriving DecidableEq, Repr, Inhabited

/-- `addr7` of R101. -/
def addrCheck (addr : Byte) : Option Check :=
  if addr.getLsbD 7 then some .addr7 else none

/-- The check of R101 that the instruction fails, if any. -/
def Instr.failing : Instr → Option Check
  | .new m _ _ => if m.frequency = 0 then some .freqPos else none
  | .read a _ => addrCheck a
  | .write a _ => addrCheck a
  | .writeRead a _ _ => addrCheck a
  | .transaction a _ => addrCheck a
  | .reservedOpc0 _ | .reservedOpc7 _ | .reservedOpc8 _ | .reservedOpc9 _ | .reservedOpcA _ => some .opcKnown
  | .reservedOpcB _ | .reservedOpcC _ | .reservedOpcD _ | .reservedOpcE _ | .reservedOpcF _ => some .opcKnown
  | .modeWord k d _ => if k = .standard ∧ d = .duty16to9 then some .modeZero else none
  | .release => none
  | .countWord _ | .opWrite _ | .opRead _ | .addrByteW _ | .addrByteR _ => none
  | .resOk | .resErrOverrun | .resErrNoackAddress | .resErrNoackData | .resErrNoackUnknown => none
  | .resErrTimeout | .resErrBus | .resErrCrc | .resErrArbitrationLoss => none
  | .ctlRest | .ctlNewEnable | .ctlNewReset | .ctlNewApply | .ctlIdlePoll | .ctlIdleClear | .ctlIdleCond => none
  | .ctlSreqAckEn | .ctlSreqStart | .ctlSreqPoll | .ctlSreqClear | .ctlStartedPoll | .ctlStartedClear => none
  | .ctlStartedCond | .ctlAddrWrite | .ctlAddrPoll | .ctlAddrClear | .ctlTxePoll | .ctlTxeClear => none
  | .ctlTxWrite | .ctlTxcPoll | .ctlTxcClear | .ctlRxPoll | .ctlRxClear | .ctlRxRead | .ctlArmLast => none
  | .ctlGenStop | .ctlAddrAckclr | .ctlReserved1C | .ctlReserved1D | .ctlReserved1E | .ctlReserved1F => none
  | .pollErrors _ | .waitStopIdle | .setAck | .genStart | .uopArmLast | .uopGenStop | .addressPhase => none
  | .sendByte | .recvByte | .writeBytes | .readBytes | .writeWoPrepare | .readWoPrepare => none

/-- An instruction passes the checks of R101 that concern its own words. -/
def WellFormed (i : Instr) : Bool := i.failing == none

/-- One descriptor can spell the operation: its length fits `LEN_W = 15` bits (R94, D22). -/
def Operation.fits (op : Operation) : Bool := decide (op.length < 2 ^ 15)

/-- The binary encoding can spell the instruction: lengths fit 15 bits, counts 16 bits, frequencies 32 bits (D22). -/
def Fits : Instr → Bool
  | .new m clk _ => decide (m.frequency < 2 ^ 32) && decide (clk < 2 ^ 32)
  | .read _ n => decide (n < 2 ^ 15)
  | .write _ bs => decide (bs.length < 2 ^ 15)
  | .writeRead _ bs n => decide (bs.length < 2 ^ 15) && decide (n < 2 ^ 15)
  | .transaction _ ops => decide (ops.length < 2 ^ 16) && ops.all Operation.fits
  | .release | .modeWord _ _ _ => true
  | .reservedOpc0 _ | .reservedOpc7 _ | .reservedOpc8 _ | .reservedOpc9 _ | .reservedOpcA _ => true
  | .reservedOpcB _ | .reservedOpcC _ | .reservedOpcD _ | .reservedOpcE _ | .reservedOpcF _ => true
  | .countWord _ | .opWrite _ | .opRead _ | .addrByteW _ | .addrByteR _ => true
  | .resOk | .resErrOverrun | .resErrNoackAddress | .resErrNoackData | .resErrNoackUnknown => true
  | .resErrTimeout | .resErrBus | .resErrCrc | .resErrArbitrationLoss => true
  | .ctlRest | .ctlNewEnable | .ctlNewReset | .ctlNewApply | .ctlIdlePoll | .ctlIdleClear | .ctlIdleCond => true
  | .ctlSreqAckEn | .ctlSreqStart | .ctlSreqPoll | .ctlSreqClear | .ctlStartedPoll | .ctlStartedClear => true
  | .ctlStartedCond | .ctlAddrWrite | .ctlAddrPoll | .ctlAddrClear | .ctlTxePoll | .ctlTxeClear => true
  | .ctlTxWrite | .ctlTxcPoll | .ctlTxcClear | .ctlRxPoll | .ctlRxClear | .ctlRxRead | .ctlArmLast => true
  | .ctlGenStop | .ctlAddrAckclr | .ctlReserved1C | .ctlReserved1D | .ctlReserved1E | .ctlReserved1F => true
  | .pollErrors _ | .waitStopIdle | .setAck | .genStart | .uopArmLast | .uopGenStop | .addressPhase => true
  | .sendByte | .recvByte | .writeBytes | .readBytes | .writeWoPrepare | .readWoPrepare => true

end Sys2Proof
end

