-- ==== Sys2Proof/Decode.lean ====
section
/-! DEFINITION. The decoder, total on any words and bytes and rejecting by the name of the failed check, and after it
the encoder. R90: "a decoder is trusted only to carry a well-formed stream to the term it spells and to refuse every
other stream". Format H is read from a stream of 16-bit words (the command stream) and a stream of bytes (WDATA); the
other formats are one word, one byte or one 5-bit code each. -/

namespace Sys2Proof

/-! ## Fields -/

/-- `opc`, bits 15:12 of a header word (R92). -/
def headerOpc (w : Word) : BitVec 4 := w.extractLsb' 12 4

/-- The must-be-zero bits 11:8 of a header word (R92). -/
def headerZero (w : Word) : BitVec 4 := w.extractLsb' 8 4

/-- The address operand, bits 7:0 of a header word (R92). -/
def headerAddr (w : Word) : Byte := w.extractLsb' 0 8

/-- Bits 11:0 of a header word: what stands below a reserved opcode. -/
def headerLow (w : Word) : BitVec 12 := w.extractLsb' 0 12

/-- `len`, bits 14:0 of a descriptor (R94). -/
def descLen (w : Word) : BitVec 15 := w.extractLsb' 0 15

/-- The direction that bit 15 of a descriptor spells (R94). -/
def descDir (w : Word) : Dir := if w.getLsbD 15 then .read else .write

/-- A 32-bit operand, "sent low word first" (R108). -/
def joinWords (lo hi : Word) : Nat := lo.toNat + 2 ^ 16 * hi.toNat

/-! ## The command stream, format H -/

/-- What the decoder answers on a stream: an instruction with the words and bytes it leaves, or that the stream does
not hold the whole command yet, or the check that the stream fails. -/
inductive Decoded
  | done (i : Instr) (words : List Word) (bytes : List Byte)
  | incomplete
  | refused (c : Check)
  deriving DecidableEq, Repr, Inhabited

/-- The first `n` bytes of a stream and what is left, if there are that many. -/
def takeBytes : Nat → List Byte → Option (List Byte × List Byte)
  | 0, bs => some ([], bs)
  | _ + 1, [] => none
  | n + 1, b :: bs => (takeBytes n bs).map fun (taken, rest) => (b :: taken, rest)

/-- One descriptor (R94): `dir = 1` spells OpRead(len), `dir = 0` spells OpWrite of the next `len` bytes of WDATA. -/
def takeOperation (w : Word) (bytes : List Byte) : Option (Operation × List Byte) :=
  match descDir w with
  | .read => some (.read (descLen w).toNat, bytes)
  | .write => (takeBytes (descLen w).toNat bytes).map fun (taken, rest) => (.write taken, rest)

/-- The `n` descriptors of a TRANSACTION (R96), the bytes of all Writes from WDATA in descriptor order (R102). -/
def takeOperations : Nat → List Word → List Byte → Option (List Operation × List Word × List Byte)
  | 0, ws, bs => some ([], ws, bs)
  | _ + 1, [], _ => none
  | n + 1, w :: ws, bs =>
    match takeOperation w bs with
    | none => none
    | some (op, bs') => (takeOperations n ws bs').map fun (ops, ws', bs'') => (op :: ops, ws', bs'')

/-- The `mode_zero` check of R101 on a mode word (R93). -/
def modeWordZero (w : Word) : Bool :=
  w.extractLsb' 0 13 == 0#13 && (w.getLsbD 15 || !w.getLsbD 14)

/-- The Mode that a mode word and a frequency spell (R93). -/
def modeOf (w : Word) (frequency : Nat) : Mode :=
  if w.getLsbD 15 then .fast frequency (if w.getLsbD 14 then .duty16to9 else .duty2to1) else .standard frequency

/-- The five words after the header of NEW (R96): M, frequency low and high, input clock low and high. -/
def decodeNew (ws : List Word) (bs : List Byte) : Decoded :=
  match ws with
  | [] => .incomplete
  | m :: rest =>
    if modeWordZero m then
      match rest with
      | fl :: fh :: cl :: ch :: left =>
        if joinWords fl fh = 0 then .refused .freqPos
        else .done (.new (modeOf m (joinWords fl fh)) (joinWords cl ch) (m.getLsbD 13)) left bs
      | _ => .incomplete
    else .refused .modeZero

/-- The word after the header of READ (R96): D with `dir = 1`. -/
def decodeRead (addr : Byte) (ws : List Word) (bs : List Byte) : Decoded :=
  match ws with
  | [] => .incomplete
  | d :: left =>
    match descDir d with
    | .write => .refused .dirFits
    | .read => .done (.read addr (descLen d).toNat) left bs

/-- The word after the header of WRITE (R96): D with `dir = 0`, its bytes on WDATA. -/
def decodeWrite (addr : Byte) (ws : List Word) (bs : List Byte) : Decoded :=
  match ws with
  | [] => .incomplete
  | d :: left =>
    match descDir d with
    | .read => .refused .dirFits
    | .write =>
      match takeBytes (descLen d).toNat bs with
      | none => .incomplete
      | some (taken, bs') => .done (.write addr taken) left bs'

/-- The words after the header of WRITE_READ (R96): D with `dir = 0`, then D with `dir = 1`. -/
def decodeWriteRead (addr : Byte) (ws : List Word) (bs : List Byte) : Decoded :=
  match ws with
  | [] => .incomplete
  | d :: rest =>
    match descDir d with
    | .read => .refused .dirFits
    | .write =>
      match rest with
      | [] => .incomplete
      | e :: left =>
        match descDir e with
        | .write => .refused .dirFits
        | .read =>
          match takeBytes (descLen d).toNat bs with
          | none => .incomplete
          | some (taken, bs') => .done (.writeRead addr taken (descLen e).toNat) left bs'

/-- The words after the header of TRANSACTION (R96): N, then `nops` words of format D. -/
def decodeTransaction (addr : Byte) (ws : List Word) (bs : List Byte) : Decoded :=
  match ws with
  | [] => .incomplete
  | n :: rest =>
    match takeOperations n.toNat rest bs with
    | none => .incomplete
    | some (ops, left, bs') => .done (.transaction addr ops) left bs'

/-- The checks `hdr_zero` and `addr7` of R101 on the header of a command with an address operand, then its words. -/
def decodeAddressed (h : Word) (next : Byte → Decoded) : Decoded :=
  if headerZero h = 0 then
    match addrCheck (headerAddr h) with
    | some c => .refused c
    | none => next (headerAddr h)
  else .refused .hdrZero

/-- The check `hdr_zero` of R101 on the header of NEW and RELEASE, whose `addr` must be zero too. -/
def decodeUnaddressed (h : Word) (next : Decoded) : Decoded :=
  if headerZero h = 0 ∧ headerAddr h = 0 then next else .refused .hdrZero

/-- The next command of the command stream, by the opcode map of R100. A reserved opcode is carried to its own
constructor, whose meaning is the refusal `opc_known`. -/
def decodeCommand (ws : List Word) (bs : List Byte) : Decoded :=
  match ws with
  | [] => .incomplete
  | h :: rest =>
    match (headerOpc h).toNat with
    | 1 => decodeUnaddressed h (decodeNew rest bs)
    | 2 => decodeAddressed h fun a => decodeRead a rest bs
    | 3 => decodeAddressed h fun a => decodeWrite a rest bs
    | 4 => decodeAddressed h fun a => decodeWriteRead a rest bs
    | 5 => decodeAddressed h fun a => decodeTransaction a rest bs
    | 6 => decodeUnaddressed h (.done .release rest bs)
    | 0 => .done (.reservedOpc0 (headerLow h)) rest bs
    | 7 => .done (.reservedOpc7 (headerLow h)) rest bs
    | 8 => .done (.reservedOpc8 (headerLow h)) rest bs
    | 9 => .done (.reservedOpc9 (headerLow h)) rest bs
    | 10 => .done (.reservedOpcA (headerLow h)) rest bs
    | 11 => .done (.reservedOpcB (headerLow h)) rest bs
    | 12 => .done (.reservedOpcC (headerLow h)) rest bs
    | 13 => .done (.reservedOpcD (headerLow h)) rest bs
    | 14 => .done (.reservedOpcE (headerLow h)) rest bs
    | _ => .done (.reservedOpcF (headerLow h)) rest bs

/-! ## The other formats -/

/-- Format M (R93): the mode word as an instruction of its own, refused by `mode_zero`. -/
def decodeMode (w : Word) : Decoded :=
  if modeWordZero w then
    .done (.modeWord (if w.getLsbD 15 then .fast else .standard)
      (if w.getLsbD 14 then .duty16to9 else .duty2to1) (w.getLsbD 13)) [] []
  else .refused .modeZero

/-- Format N (R95): the count word. -/
def decodeCount (w : Word) : Decoded := .done (.countWord w) [] []

/-- Format D (R94): the operation descriptor. -/
def decodeDescriptor (w : Word) : Decoded :=
  match descDir w with
  | .write => .done (.opWrite (descLen w)) [] []
  | .read => .done (.opRead (descLen w)) [] []

/-- Format W8 (R98): the address byte, `addr[6:0]` above the direction bit. -/
def decodeAddrByte (b : Byte) : Instr :=
  if b.getLsbD 0 then .addrByteR (b.extractLsb' 1 7) else .addrByteW (b.extractLsb' 1 7)

/-- Format R8 (R99): the nine result bytes; every other byte is reserved (93_implementation_defined.md U19). -/
def decodeResult (b : Byte) : Option Instr :=
  match b.toNat with
  | 0x00 => some .resOk
  | 0x80 => some .resErrOverrun
  | 0x90 => some .resErrNoackAddress
  | 0x91 => some .resErrNoackData
  | 0x92 => some .resErrNoackUnknown
  | 0xA0 => some .resErrTimeout
  | 0xB0 => some .resErrBus
  | 0xC0 => some .resErrCrc
  | 0xD0 => some .resErrArbitrationLoss
  | _ => none

/-- Format CTL: the table of control points (R24). -/
def decodePoint (c : Code) : Instr :=
  match c.toNat with
  | 0x00 => .ctlRest
  | 0x01 => .ctlNewEnable
  | 0x02 => .ctlNewReset
  | 0x03 => .ctlNewApply
  | 0x04 => .ctlIdlePoll
  | 0x05 => .ctlIdleClear
  | 0x06 => .ctlIdleCond
  | 0x07 => .ctlSreqAckEn
  | 0x08 => .ctlSreqStart
  | 0x09 => .ctlSreqPoll
  | 0x0A => .ctlSreqClear
  | 0x0B => .ctlStartedPoll
  | 0x0C => .ctlStartedClear
  | 0x0D => .ctlStartedCond
  | 0x0E => .ctlAddrWrite
  | 0x0F => .ctlAddrPoll
  | 0x10 => .ctlAddrClear
  | 0x11 => .ctlTxePoll
  | 0x12 => .ctlTxeClear
  | 0x13 => .ctlTxWrite
  | 0x14 => .ctlTxcPoll
  | 0x15 => .ctlTxcClear
  | 0x16 => .ctlRxPoll
  | 0x17 => .ctlRxClear
  | 0x18 => .ctlRxRead
  | 0x19 => .ctlArmLast
  | 0x1A => .ctlGenStop
  | 0x1B => .ctlAddrAckclr
  | 0x1C => .ctlReserved1C
  | 0x1D => .ctlReserved1D
  | 0x1E => .ctlReserved1E
  | _ => .ctlReserved1F

/-- Format UOP (R104): the micro-operations that are entered at a control point. Several share one entry point, since
"they have no encoding on the command stream"; the list gives them all, the innermost first. -/
def decodeUop (c : Code) : List Instr :=
  match c.toNat with
  | 0x04 => [.waitStopIdle, .addressPhase, .pollErrors .idle]
  | 0x07 => [.setAck]
  | 0x08 => [.genStart]
  | 0x09 => [.pollErrors .sreq]
  | 0x0B => [.pollErrors .started]
  | 0x0F => [.pollErrors .addr]
  | 0x11 => [.sendByte, .writeBytes, .writeWoPrepare, .pollErrors .txe]
  | 0x14 => [.pollErrors .txc]
  | 0x16 => [.recvByte, .readBytes, .readWoPrepare, .pollErrors .rx]
  | 0x19 => [.uopArmLast]
  | 0x1A => [.uopGenStop]
  | _ => []

/-! ## One image per format -/

/-- The bits of an instruction: words on the command stream with their bytes on WDATA, one byte, or one code. -/
inductive Image
  | stream (words : List Word) (bytes : List Byte)
  | byte (b : Byte)
  | code (c : Code)
  deriving DecidableEq, Repr, Inhabited

/-- The one word of an operand format, the rest of the stream left over. -/
def withRest (d : Word → Decoded) (ws : List Word) (bs : List Byte) : Decoded :=
  match ws with
  | [] => .incomplete
  | w :: rest =>
    match d w with
    | .done i _ _ => .done i rest bs
    | .incomplete => .incomplete
    | .refused c => .refused c

/-- Reading an image as an instruction of a given format. -/
def decode (f : Format) (img : Image) : Decoded :=
  match f, img with
  | .h, .stream ws bs => decodeCommand ws bs
  | .m, .stream ws bs => withRest decodeMode ws bs
  | .n, .stream ws bs => withRest decodeCount ws bs
  | .d, .stream ws bs => withRest decodeDescriptor ws bs
  | .w8, .byte b => .done (decodeAddrByte b) [] []
  | .r8, .byte b =>
    match decodeResult b with
    | some i => .done i [] []
    | none => .refused .resultKnown
  | .ctl, .code c => .done (decodePoint c) [] []
  | .uop, .code c =>
    match decodeUop c with
    | i :: _ => .done i [] []
    | [] => .refused .uopKnown
  | _, _ => .incomplete

/-! ## The encoder -/

/-- Format H (R92): `opc ++ 0000 ++ addr`. -/
def headerWord (opc : BitVec 4) (addr : Byte) : Word := opc ++ 0#4 ++ addr

/-- A reserved header: the opcode above its twelve free bits. -/
def reservedWord (opc : BitVec 4) (low : BitVec 12) : Word := opc ++ low

/-- The direction bit (R98): 0 for Write, 1 for Read. -/
def dirBit : Dir → BitVec 1
  | .write => 0#1
  | .read => 1#1

/-- Format D (R94): `dir ++ len`. -/
def descWord (d : Dir) (len : Nat) : Word := dirBit d ++ BitVec.ofNat 15 len

/-- Format M (R93): `kind ++ duty ++ alert ++ 0`. -/
def modeWordBits (k : SpeedKind) (d : Duty) (alert : Bool) : Word :=
  BitVec.ofBool (k == .fast) ++ BitVec.ofBool (d == .duty16to9) ++ BitVec.ofBool alert ++ 0#13

/-- The `kind` of a Mode. -/
def Mode.kind : Mode → SpeedKind
  | .standard _ => .standard
  | .fast _ _ => .fast

/-- The `duty` bit of a Mode; 0 when `kind = 0` (R93). -/
def Mode.duty : Mode → Duty
  | .standard _ => .duty2to1
  | .fast _ d => d

/-- The low and the high word of a 32-bit operand, low word first (R108). -/
def splitWords (n : Nat) : List Word := [BitVec.ofNat 16 n, BitVec.ofNat 16 (n / 2 ^ 16)]

/-- The descriptor of an Operation (R94). -/
def Operation.word (op : Operation) : Word := descWord op.dir op.length

/-- What an Operation puts on WDATA (R102). -/
def Operation.wdata : Operation → List Byte
  | .write bs => bs
  | .read _ => []

/-- Format W8 (R98): `addr_byte(addr, dir) = addr[6:0] ++ dirbit(dir)`. -/
def addrByteBits (addr : BitVec 7) (d : Dir) : Byte := addr ++ dirBit d

/-- Format R8 (R99): `kind` of an error. -/
def errKind : Err → BitVec 3
  | .overrun => 0
  | .noAcknowledge _ => 1
  | .timeout => 2
  | .bus => 3
  | .crc => 4
  | .arbitrationLoss => 5

/-- Format R8 (R99): `phase`, 0 for every kind but NoAcknowledge. -/
def errPhase : Err → BitVec 2
  | .noAcknowledge .address => 0
  | .noAcknowledge .data => 1
  | .noAcknowledge .unknown => 2
  | .overrun | .timeout | .bus | .crc | .arbitrationLoss => 0

/-- Format R8 (R99): `err ++ kind ++ 00 ++ phase`, and 0x00 for Ok. -/
def resultByte : Result → Byte
  | .ok => 0#8
  | .err e => 1#1 ++ errKind e ++ 0#2 ++ errPhase e

/-- The control point that the POLL_ERRORS of a wait runs at (R26). -/
def pollCode : Wait → Code
  | .idle => 0x04
  | .sreq => 0x09
  | .started => 0x0B
  | .addr => 0x0F
  | .txe => 0x11
  | .txc => 0x14
  | .rx => 0x16

/-- The encoder, from the tables of R24, R92 to R100 and R104. -/
def encode : Instr → Image
  | .new m clk al =>
    .stream (headerWord 1 0 :: modeWordBits m.kind m.duty al :: splitWords m.frequency ++ splitWords clk) []
  | .read a n => .stream [headerWord 2 a, descWord .read n] []
  | .write a bs => .stream [headerWord 3 a, descWord .write bs.length] bs
  | .writeRead a bs n => .stream [headerWord 4 a, descWord .write bs.length, descWord .read n] bs
  | .transaction a ops =>
    .stream (headerWord 5 a :: BitVec.ofNat 16 ops.length :: ops.map Operation.word) (ops.flatMap Operation.wdata)
  | .release => .stream [headerWord 6 0] []
  | .reservedOpc0 low => .stream [reservedWord 0x0 low] []
  | .reservedOpc7 low => .stream [reservedWord 0x7 low] []
  | .reservedOpc8 low => .stream [reservedWord 0x8 low] []
  | .reservedOpc9 low => .stream [reservedWord 0x9 low] []
  | .reservedOpcA low => .stream [reservedWord 0xA low] []
  | .reservedOpcB low => .stream [reservedWord 0xB low] []
  | .reservedOpcC low => .stream [reservedWord 0xC low] []
  | .reservedOpcD low => .stream [reservedWord 0xD low] []
  | .reservedOpcE low => .stream [reservedWord 0xE low] []
  | .reservedOpcF low => .stream [reservedWord 0xF low] []
  | .modeWord k d al => .stream [modeWordBits k d al] []
  | .countWord n => .stream [n] []
  | .opWrite len => .stream [dirBit .write ++ len] []
  | .opRead len => .stream [dirBit .read ++ len] []
  | .addrByteW a => .byte (addrByteBits a .write)
  | .addrByteR a => .byte (addrByteBits a .read)
  | .resOk => .byte (resultByte .ok)
  | .resErrOverrun => .byte (resultByte (.err .overrun))
  | .resErrNoackAddress => .byte (resultByte (.err (.noAcknowledge .address)))
  | .resErrNoackData => .byte (resultByte (.err (.noAcknowledge .data)))
  | .resErrNoackUnknown => .byte (resultByte (.err (.noAcknowledge .unknown)))
  | .resErrTimeout => .byte (resultByte (.err .timeout))
  | .resErrBus => .byte (resultByte (.err .bus))
  | .resErrCrc => .byte (resultByte (.err .crc))
  | .resErrArbitrationLoss => .byte (resultByte (.err .arbitrationLoss))
  | .ctlRest => .code 0x00
  | .ctlNewEnable => .code 0x01
  | .ctlNewReset => .code 0x02
  | .ctlNewApply => .code 0x03
  | .ctlIdlePoll => .code 0x04
  | .ctlIdleClear => .code 0x05
  | .ctlIdleCond => .code 0x06
  | .ctlSreqAckEn => .code 0x07
  | .ctlSreqStart => .code 0x08
  | .ctlSreqPoll => .code 0x09
  | .ctlSreqClear => .code 0x0A
  | .ctlStartedPoll => .code 0x0B
  | .ctlStartedClear => .code 0x0C
  | .ctlStartedCond => .code 0x0D
  | .ctlAddrWrite => .code 0x0E
  | .ctlAddrPoll => .code 0x0F
  | .ctlAddrClear => .code 0x10
  | .ctlTxePoll => .code 0x11
  | .ctlTxeClear => .code 0x12
  | .ctlTxWrite => .code 0x13
  | .ctlTxcPoll => .code 0x14
  | .ctlTxcClear => .code 0x15
  | .ctlRxPoll => .code 0x16
  | .ctlRxClear => .code 0x17
  | .ctlRxRead => .code 0x18
  | .ctlArmLast => .code 0x19
  | .ctlGenStop => .code 0x1A
  | .ctlAddrAckclr => .code 0x1B
  | .ctlReserved1C => .code 0x1C
  | .ctlReserved1D => .code 0x1D
  | .ctlReserved1E => .code 0x1E
  | .ctlReserved1F => .code 0x1F
  | .pollErrors w => .code (pollCode w)
  | .waitStopIdle => .code 0x04
  | .setAck => .code 0x07
  | .genStart => .code 0x08
  | .uopArmLast => .code 0x19
  | .uopGenStop => .code 0x1A
  | .addressPhase => .code 0x04
  | .sendByte => .code 0x11
  | .recvByte => .code 0x16
  | .writeBytes => .code 0x11
  | .readBytes => .code 0x16
  | .writeWoPrepare => .code 0x11
  | .readWoPrepare => .code 0x16

/-- The words of an instruction's image. -/
def encodeWords (i : Instr) : List Word :=
  match encode i with
  | .stream ws _ => ws
  | _ => []

/-- The WDATA bytes of an instruction's image. -/
def encodeBytes (i : Instr) : List Byte :=
  match encode i with
  | .stream _ bs => bs
  | _ => []

/-! ## The host's view: one number per table row -/

/-- The words of a table row's number: bit 0 is the least significant bit of the first word. The operand words above
`nbits` are zeros, as many as the longest command that such a number can begin needs (NEW has five operand words; the
second word of a TRANSACTION counts its descriptors). -/
def tableWords (nbits w : Nat) : List Word :=
  (List.range (nbits / 16)).map (fun j => BitVec.ofNat 16 (w >>> (16 * j))) ++
    List.replicate (6 + (w >>> 16) % 2 ^ 16) 0#16

/-- The rows of 5 or 8 bits share their numbers: codes below 0x20 are read as control points (R24), the nine result
bytes of R99 from 0x80 up as results, the rest as address bytes (R98). -/
def decodeSmall (w : Nat) : Instr :=
  if w < 32 then decodePoint (BitVec.ofNat 5 w)
  else
    match decodeResult (BitVec.ofNat 8 w) with
    | some i => i
    | none => decodeAddrByte (BitVec.ofNat 8 w)

/-- The instruction that the decoder reads from a table row's bits: rows of 16 bits stand at the head of the command
stream (format H), shorter rows are read by `decodeSmall`. -/
def decodeTableWord (nbits w : Nat) : Option Instr :=
  if nbits ≤ 8 then some (decodeSmall w)
  else
    match decodeCommand (tableWords nbits w) [] with
    | .done i _ _ => some i
    | .incomplete => none
    | .refused _ => none

end Sys2Proof
end

