-- ==== Sys2Proof/Machine/Controller.lean ====
section
/-! DEFINITION. The named fields of the bus controller that the block reads and writes through the register interface
(R32 to R38), and a move of the environment. The source gives no bit position to any field; records hold them (R40). -/

namespace Sys2Proof.Machine

/-- Group CTRL (R32). -/
structure Ctrl where
  startReq : Bool
  stopReq : Bool
  ackEn : Bool
  deriving DecidableEq, Repr, Inhabited

/-- The fields that one `RegModify(CTRL, ...)` assigns; a field left at `none` keeps its value (R11). -/
structure CtrlAssign where
  startReq : Option Bool := none
  stopReq : Option Bool := none
  ackEn : Option Bool := none
  deriving DecidableEq, Repr, Inhabited

/-- Group STS: the six fault flags (R35) and the five event flags (R34), one snapshot of 11 fields. -/
structure Status where
  timeout : Bool
  pec : Bool
  overrun : Bool
  ackfail : Bool
  arlost : Bool
  buserr : Bool
  startDone : Bool
  addrAck : Bool
  txEmpty : Bool
  xferDone : Bool
  rxNotEmpty : Bool
  deriving DecidableEq, Repr, Inhabited

/-- Group STS2 (R36). -/
structure Status2 where
  master : Bool
  busy : Bool
  deriving DecidableEq, Repr, Inhabited

/-- The six fault flags, the values of `pend_flag`, "coded 0 to 5 in that order" (R29). -/
inductive FaultFlag
  | timeout
  | pec
  | overrun
  | ackfail
  | arlost
  | buserr
  deriving DecidableEq, Repr, Inhabited

/-- The SPEED setting of group CFG: "standard or fast, and in fast the duty cycle" (R38). -/
inductive Speed
  | standard
  | fast (duty : Duty)
  deriving DecidableEq, Repr, Inhabited

/-- Group CFG (R38): what the out-of-scope function `timing` computes. -/
structure Timing where
  divisor : Nat
  riseTime : Nat
  speed : Speed
  deriving DecidableEq, Repr, Inhabited

/-- The controller's fields. `DATA` has two sides (R37): `txData` is the byte last written, `rxData` the byte that the
next read returns, and "a read does not return what was written". -/
structure Controller where
  ctrl : Ctrl
  stopPending : Bool
  sts : Status
  sts2 : Status2
  txData : Byte
  rxData : Byte
  cfg : Timing
  deriving DecidableEq, Repr, Inhabited

/-- What the host wrote into the controller while it owns the registers, that is while `handle = Unbound` (R243) and no
NEW is in progress (R303). -/
structure OwnerWrite where
  ctrl : Ctrl
  txData : Byte
  cfg : Timing
  deriving DecidableEq, Repr, Inhabited

/-- One move of the environment between two steps of the block (R12, R68): new answers for every read, and whether the
controller takes back a START or a STOP request (R39, R140); `owner` counts only while the host owns the registers. -/
structure EnvMove where
  stopPending : Bool
  sts : Status
  sts2 : Status2
  rxData : Byte
  takeStart : Bool
  takeStop : Bool
  owner : Option OwnerWrite
  deriving DecidableEq, Repr, Inhabited

end Sys2Proof.Machine
end

