-- ==== Sys2Proof/Config.lean ====
section
/-! DEFINITION. What an implementation fixes (R9) and the free values of the model. Every constant here is opaque and
has no body: nothing can be proved of its value. -/

namespace Sys2Proof

/-- The two open Booleans of R9. They are plain data of the machine's state, constant over a run, so that every claim
about every state holds for both values of each. -/
structure Params where
  /-- `HAS_TIMEOUT_FLAG`: "when false `F_TIMEOUT` always reads 0" (R9, D18). -/
  hasTimeoutFlag : Bool
  /-- `ADDR_ACK_CLEAR_READ`: an extra status read after the address is acknowledged (R9, D17). -/
  addrAckClearRead : Bool
  deriving DecidableEq, Repr, Inhabited

/-- `timing`: "an uninterpreted total function of its two arguments, of which a model may assume nothing else" (R241). -/
opaque Config.timing : Mode → Nat → Machine.Timing

/-- FREE VALUE. The environment's move number `n`, where no move is laid down in the state (R68): any answers. -/
opaque Config.freeMove : Nat → Machine.EnvMove

/-- FREE VALUE. The controller's fields after its reset number `n` through the collaborator: "a model leaves them to the
oracle" (R281; 93_implementation_defined.md U10). -/
opaque Config.controllerAfterReset : Nat → Machine.Controller

/-- `N_INSTANCES` less one: the number of copies is open and "at least 1" (R9); no rule reads it. -/
opaque Config.furtherCopies : Nat

/-- `BASE[i]`: the base address of copy i's register block; open, "no rule reads it" (R9, R69). -/
opaque Config.base : Nat → Nat

/-- `N_INSTANCES` (R9). -/
def Config.copies : Nat := Config.furtherCopies + 1

end Sys2Proof
end

