-- ==== Sys2Proof/Machine/State.lean ====
section
/-! DEFINITION. The state of the machine as plain data: the block's registers (R20 to R30), the controller's fields
(R32 to R38), the host buffer space (R60, R64), the command and data streams (R102), the history (R70), and the model's
own fields (`call`, `params`, `env`, `tick`); the reasons a step can stop; the state after reset (R44, R280). -/

namespace Sys2Proof.Machine

/-- The values of the 5-bit register `ctl` (R24): the 28 control points in the order of their codes, and the four codes
that are "reserved; never entered" (93_implementation_defined.md U16). -/
inductive Point
  | rest
  | newEnable
  | newReset
  | newApply
  | idlePoll
  | idleClear
  | idleCond
  | sreqAckEn
  | sreqStart
  | sreqPoll
  | sreqClear
  | startedPoll
  | startedClear
  | startedCond
  | addrWrite
  | addrPoll
  | addrClear
  | txePoll
  | txeClear
  | txWrite
  | txcPoll
  | txcClear
  | rxPoll
  | rxClear
  | rxRead
  | armLast
  | genStop
  | addrAckclr
  | reserved1C
  | reserved1D
  | reserved1E
  | reserved1F
  deriving DecidableEq, Repr, Inhabited

/-- The Bus Handle (R21). -/
inductive Handle
  | unbound
  | bound
  deriving DecidableEq, Repr, Inhabited

/-- `cfg`, the Mode latched by NEW (R22). -/
structure Cfg where
  mode : Mode
  clockHz : Nat
  alert : Bool
  deriving DecidableEq, Repr, Inhabited

/-- `cmd`, which command is in progress (R23). -/
inductive CmdKind
  | new
  | read
  | write
  | writeRead
  | transaction
  | release
  deriving DecidableEq, Repr, Inhabited

/-- `txn`, the transaction state (R27). -/
structure Txn where
  prevDir : Dir
  addr : Byte
  done : Bool
  deriving DecidableEq, Repr, Inhabited

/-- The alphabet of the history (R70). -/
inductive Event
  | rdSts (s : Status)
  | rdSts2 (r : Status2)
  | rdStopPending (p : Bool)
  | rdData (v : Byte)
  | modCtrl (a : CtrlAssign)
  | clr (f : FaultFlag)
  | wrData (b : Byte)
  | wrCfg (c : Timing)
  | collabClockEnable
  | collabClockReset
  | bufRd (k i : Nat) (b : Byte)
  | bufWr (k i : Nat) (v : Byte)
  | cmd (c : Instr)
  | res (r : Result)
  deriving DecidableEq, Repr, Inhabited

/-- The Read buffers of the host: (address, byte) pairs in canonical form, addresses strictly rising. An unlisted
address reads as `none`: a byte that the block has not stored is the host's own and unknown to the model (R64). -/
abbrev Memory := List Host.Cell

/-- The canonical form of memory. -/
abbrev Memory.wf (m : Memory) : Prop := m.Pairwise fun a b => a.1 < b.1

/-- The machine's state. -/
structure State where
  /-- `handle` (R21). -/
  handle : Handle
  /-- `cfg` (R22). -/
  cfg : Cfg
  /-- `cmd` (R23). -/
  cmd : CmdKind
  /-- `addr` (R23). -/
  addr : Byte
  /-- `ops` (R23): the sequence, with the contents of its Write slices (R102). -/
  ops : List Operation
  /-- `ctl` (R24). -/
  ctl : Point
  /-- `txn` (R27). -/
  txn : Txn
  /-- `op_idx` (R28). -/
  opIdx : Nat
  /-- `byte_idx` (R28). -/
  byteIdx : Nat
  /-- `dir` (R28). -/
  dir : Dir
  /-- `snap` (R29). -/
  snap : Status
  /-- `pend_flag` (R29). -/
  pendFlag : FaultFlag
  /-- `result` (R30); `none` is the spec's own "empty". -/
  result : Option Result
  /-- The controller's fields (R32 to R38). -/
  regs : Controller
  /-- The history (R70), oldest event first. -/
  hist : List Event
  /-- The command stream (R92 to R96): the words that the block has not taken yet. -/
  cmdIn : List Word
  /-- WDATA (R102): the bytes that no command has taken yet. -/
  wdata : List Byte
  /-- RDATA (R102): the bytes stored into Read buffers, in the order stored. -/
  rdata : List Byte
  /-- RESULT (R102): one result byte per command. -/
  resOut : List Byte
  /-- The Read buffers (R64). -/
  mem : Memory
  /-- The model's own: how many commands have been accepted; it tells apart the buffers of different calls, since
  "buffers are borrowed for the duration of the call only" (R64). -/
  call : Nat
  /-- The model's own: the two open parameters of R9, constant over a run. -/
  params : Params
  /-- The model's own: moves of the environment laid down in advance, taken one a step before the free ones. -/
  env : List EnvMove
  /-- The model's own: how many free values have been drawn; free value number `tick` is the next. -/
  tick : Nat
  deriving DecidableEq, Repr, Inhabited

/-- The reasons the machine stops with a fault. -/
inductive Fault
  /-- A host-buffer access outside the operation in progress: raised by CTL_TX_WRITE and CTL_RX_READ (and the
  micro-operations that run them) in a state where `(op_idx, byte_idx)` names no byte of a slice or buffer of the right
  direction. R66: only `i < len(ops[k])` is a legal address. No reachable state raises it. Safe. -/
  | bufferRange
  /-- `dispatch` where `ops[op_idx]` does not exist: raised by every point that can hand control to `dispatch`. R214
  speaks of `ops[k]` only. No reachable state raises it. Safe. -/
  | noOperation
  /-- A reserved control-point code in `ctl`: raised by CTL_RESERVED_1C to CTL_RESERVED_1F, and
  by CTL_ADDR_ACKCLR (0x1B) without its parameter (R166). "reserved; never entered; a
  model that represents `ctl` as a 5-bit value gives them no step (stuck)" (93_implementation_defined.md U16). Safe. -/
  | reservedPoint
  deriving DecidableEq, Repr, Inhabited

/-- The reasons the machine gives an instruction no step. -/
inductive Refusal
  /-- An instruction without a meaning yet: raised by `exec` only. Safe. -/
  | notModelled (mnemonic : String)
  /-- `opc_known` (R101): raised by the reserved opcodes. Safe. -/
  | opcKnown
  /-- `hdr_zero` (R101): raised where the command stream is taken. Safe. -/
  | hdrZero
  /-- `addr7` (R101): raised where the command stream is taken, and by READ, WRITE, WRITE_READ, TRANSACTION. Safe. -/
  | addr7
  /-- `dir_fits` (R101): raised where the command stream is taken. Safe. -/
  | dirFits
  /-- `mode_zero` (R101): raised where the command stream is taken, and by MODE_WORD. Safe. -/
  | modeZero
  /-- `freq_pos` (R101): raised where the command stream is taken, and by NEW. Safe. -/
  | freqPos
  /-- `handle_fits` (R101, R245): raised by the six commands. Safe. -/
  | handleFits
  /-- `at_rest` (R101): raised by the six commands and the operand words. Safe. -/
  | atRest
  /-- A result that no rule produces: raised by RES_ERR_BUS (R255). Safe. -/
  | neverProduced
  deriving DecidableEq, Repr, Inhabited

/-- The controller's fields before anything has written them. The spec gives no value to any of them (R44); the model
names zeros. -/
def Controller.zero : Controller where
  ctrl := ⟨false, false, false⟩
  stopPending := false
  sts := ⟨false, false, false, false, false, false, false, false, false, false, false⟩
  sts2 := ⟨false, false⟩
  txData := 0
  rxData := 0
  cfg := ⟨0, 0, .standard⟩

/-- After reset (R44, R280): `handle = Unbound`, `ctl = REST`, `result` empty, the history empty. Every other register
is unspecified there and holds the value that the assumption log names. -/
def State.reset : State where
  handle := .unbound
  cfg := ⟨.standard 0, 0, false⟩
  cmd := .new
  addr := 0
  ops := []
  ctl := .rest
  txn := ⟨.write, 0, false⟩
  opIdx := 0
  byteIdx := 0
  dir := .write
  snap := ⟨false, false, false, false, false, false, false, false, false, false, false⟩
  pendFlag := .timeout
  result := none
  regs := Controller.zero
  hist := []
  cmdIn := []
  wdata := []
  rdata := []
  resOut := []
  mem := []
  call := 0
  params := ⟨true, false⟩
  env := []
  tick := 0

end Sys2Proof.Machine
end

