-- ==== Sys2Proof/Machine/Flags.lean ====
section
/-! DEFINITION. The flag computations: the monitor's priority (R121), the error of a flag (R125), the re-tag (R126,
R256), clearing one flag (R35), the awaited condition of each wait (R26), assigning CTRL fields (R11, R32), and the
display packing of the groups (R40). -/

namespace Sys2Proof.Machine

/-- The value of one fault flag in a snapshot. -/
def faultBit (s : Status) : FaultFlag → Bool
  | .timeout => s.timeout
  | .pec => s.pec
  | .overrun => s.overrun
  | .ackfail => s.ackfail
  | .arlost => s.arlost
  | .buserr => s.buserr

/-- `first_fault(s)`: the first of the six fault flags, in the fixed order of R121, that is 1 in `s` (R125). -/
def firstFault (s : Status) : Option FaultFlag :=
  if s.timeout then some .timeout
  else if s.pec then some .pec
  else if s.overrun then some .overrun
  else if s.ackfail then some .ackfail
  else if s.arlost then some .arlost
  else if s.buserr then some .buserr
  else none

/-- `err_of` (R125). The bus-error flag has no error: "clear it (no error returned)" (R123). -/
def errOf : FaultFlag → Option Err
  | .timeout => some .timeout
  | .pec => some .crc
  | .overrun => some .overrun
  | .ackfail => some (.noAcknowledge .unknown)
  | .arlost => some .arbitrationLoss
  | .buserr => none

/-- The priority of a flag, 0 first (R121); also its code in `pend_flag` (R29). -/
def faultCode : FaultFlag → Nat
  | .timeout => 0
  | .pec => 1
  | .overrun => 2
  | .ackfail => 3
  | .arlost => 4
  | .buserr => 5

/-- `RegClear(F)` on the flags: "writes 0 to the one fault flag `F` of STS and touches no other flag" (R11, R35). -/
def clearFlag (f : FaultFlag) (s : Status) : Status :=
  match f with
  | .timeout => { s with timeout := false }
  | .pec => { s with pec := false }
  | .overrun => { s with overrun := false }
  | .ackfail => { s with ackfail := false }
  | .arlost => { s with arlost := false }
  | .buserr => { s with buserr := false }

/-- The re-tagging function (R256). -/
def retag (tag : Option Phase) (e : Err) : Err :=
  match tag, e with
  | some p, .noAcknowledge .unknown => .noAcknowledge p
  | _, e => e

/-- `tag(W)`: the NoAcknowledge re-tag of each wait (R26). -/
def tagOf : Wait → Option Phase
  | .idle | .sreq | .started => none
  | .addr | .txe => some .address
  | .txc | .rx => some .data

/-- The awaited event flag of a wait whose condition is read in the snapshot (R26); the two waits that make a second
read await no flag of the snapshot. -/
def awaitedFlag (s : Status) : Wait → Bool
  | .sreq => s.startDone
  | .addr => s.addrAck
  | .txe => s.txEmpty
  | .txc => s.xferDone
  | .rx => s.rxNotEmpty
  | .idle | .started => true

/-- The exit condition of W_STARTED on one read of STS2: "both must hold in one read" (R163). -/
def masterFree (r : Status2) : Bool := r.master && !r.busy

/-- One atomic read-modify-write of CTRL: assigns the listed fields "and leaves every other field as it was" (R11). -/
def assignCtrl (c : Ctrl) (a : CtrlAssign) : Ctrl where
  startReq := a.startReq.getD c.startReq
  stopReq := a.stopReq.getD c.stopReq
  ackEn := a.ackEn.getD c.ackEn

/-- What `RegRead(STS)` returns: the 11 fields at one instant (R67); without the timeout flag "`F_TIMEOUT` reads 0 in
every snapshot" (R127). -/
def visibleStatus (p : Params) (s : Status) : Status := { s with timeout := s.timeout && p.hasTimeoutFlag }

/-! ## The display packing (R40), for traces and test vectors only: no rule of the block depends on it. -/

/-- A word with one bit set where the flag is 1. -/
def bitAt (n : Nat) (b : Bool) : Word := if b then BitVec.ofNat 16 (2 ^ n) else 0

/-- STS as a 16-bit word (R40). -/
def packStatus (s : Status) : Word :=
  bitAt 0 s.startDone ||| bitAt 1 s.addrAck ||| bitAt 2 s.xferDone ||| bitAt 6 s.rxNotEmpty ||| bitAt 7 s.txEmpty |||
  bitAt 8 s.buserr ||| bitAt 9 s.arlost ||| bitAt 10 s.ackfail ||| bitAt 11 s.overrun ||| bitAt 12 s.pec |||
  bitAt 14 s.timeout

/-- The STS fields of a 16-bit word; every other bit is ignored (R40). -/
def unpackStatus (w : Word) : Status where
  timeout := w.getLsbD 14
  pec := w.getLsbD 12
  overrun := w.getLsbD 11
  ackfail := w.getLsbD 10
  arlost := w.getLsbD 9
  buserr := w.getLsbD 8
  startDone := w.getLsbD 0
  addrAck := w.getLsbD 1
  txEmpty := w.getLsbD 7
  xferDone := w.getLsbD 2
  rxNotEmpty := w.getLsbD 6

/-- STS2 as a 16-bit word (R40). -/
def packStatus2 (r : Status2) : Word := bitAt 0 r.master ||| bitAt 1 r.busy

/-- The STS2 fields of a 16-bit word (R40). -/
def unpackStatus2 (w : Word) : Status2 := ⟨w.getLsbD 0, w.getLsbD 1⟩

/-- CTRL as a 16-bit word (R40). -/
def packCtrl (c : Ctrl) : Word := bitAt 8 c.startReq ||| bitAt 9 c.stopReq ||| bitAt 10 c.ackEn

/-- The CTRL fields of a 16-bit word (R40). -/
def unpackCtrl (w : Word) : Ctrl := ⟨w.getLsbD 8, w.getLsbD 9, w.getLsbD 10⟩

end Sys2Proof.Machine
end

