-- ==== Sys2Proof/Machine/Operands.lean ====
section
/-! DEFINITION. The operands an instruction works on: the control points and their codes (R24), the points of each wait
(R26) and of each micro-operation (R104), the current operation (R214), the address byte (R98), and the host buffer
space (R60, R64, R66). -/

namespace Sys2Proof.Machine

/-! ## Control points -/

/-- The code of a control point (R24). -/
def pointCode : Point → Code
  | .rest => 0x00
  | .newEnable => 0x01
  | .newReset => 0x02
  | .newApply => 0x03
  | .idlePoll => 0x04
  | .idleClear => 0x05
  | .idleCond => 0x06
  | .sreqAckEn => 0x07
  | .sreqStart => 0x08
  | .sreqPoll => 0x09
  | .sreqClear => 0x0A
  | .startedPoll => 0x0B
  | .startedClear => 0x0C
  | .startedCond => 0x0D
  | .addrWrite => 0x0E
  | .addrPoll => 0x0F
  | .addrClear => 0x10
  | .txePoll => 0x11
  | .txeClear => 0x12
  | .txWrite => 0x13
  | .txcPoll => 0x14
  | .txcClear => 0x15
  | .rxPoll => 0x16
  | .rxClear => 0x17
  | .rxRead => 0x18
  | .armLast => 0x19
  | .genStop => 0x1A
  | .addrAckclr => 0x1B
  | .reserved1C => 0x1C
  | .reserved1D => 0x1D
  | .reserved1E => 0x1E
  | .reserved1F => 0x1F

/-- The 32 values of `ctl` in the order of their codes. -/
def allPoints : List Point :=
  [.rest, .newEnable, .newReset, .newApply, .idlePoll, .idleClear, .idleCond, .sreqAckEn] ++
  [.sreqStart, .sreqPoll, .sreqClear, .startedPoll, .startedClear, .startedCond, .addrWrite, .addrPoll] ++
  [.addrClear, .txePoll, .txeClear, .txWrite, .txcPoll, .txcClear, .rxPoll, .rxClear] ++
  [.rxRead, .armLast, .genStop, .addrAckclr, .reserved1C, .reserved1D, .reserved1E, .reserved1F]

/-- The control point of a code (R24). -/
def pointOf (c : Code) : Point := (allPoints[c.toNat]?).getD .reserved1F

/-- The instruction that stands at a control point: the value of `ctl`, decoded (R24). -/
def pointInstr (p : Point) : Instr := decodePoint (pointCode p)

/-- The reserved codes 0x1C to 0x1F (R24). -/
def isReserved : Point → Bool
  | .reserved1C | .reserved1D | .reserved1E | .reserved1F => true
  | _ => false

/-- `W_POLL`, the point of a wait that reads STS (R26). -/
def pollPointOf : Wait → Point
  | .idle => .idlePoll
  | .sreq => .sreqPoll
  | .started => .startedPoll
  | .addr => .addrPoll
  | .txe => .txePoll
  | .txc => .txcPoll
  | .rx => .rxPoll

/-- `W_CLEAR`, the point of a wait that clears a fault flag (R26). -/
def clearPointOf : Wait → Point
  | .idle => .idleClear
  | .sreq => .sreqClear
  | .started => .startedClear
  | .addr => .addrClear
  | .txe => .txeClear
  | .txc => .txcClear
  | .rx => .rxClear

/-- The control points of WAIT_STOP_IDLE (R141). -/
def idlePoints : List Point := [.idlePoll, .idleClear, .idleCond]

/-- The control points of ADDRESS_PHASE: 0x04 to 0x10, and 0x1B (R160). -/
def addressPoints : List Point :=
  [.idlePoll, .idleClear, .idleCond, .sreqAckEn, .sreqStart, .sreqPoll, .sreqClear, .startedPoll, .startedClear] ++
  [.startedCond, .addrWrite, .addrPoll, .addrClear, .addrAckclr]

/-- The control points of SEND_BYTE: 0x11 to 0x15 (R180). -/
def sendPoints : List Point := [.txePoll, .txeClear, .txWrite, .txcPoll, .txcClear]

/-- The control points of RECV_BYTE: 0x16 to 0x18 (R184). -/
def recvPoints : List Point := [.rxPoll, .rxClear, .rxRead]

/-! ## The current operation -/

/-- `ops[op_idx]`, the operation whose data phase is current (R28). -/
def currentOp (s : State) : Option Operation := s.ops[s.opIdx]?

/-- `final = (k = n - 1)` of R214, written without a subtraction. -/
def isFinal (s : State) : Bool := s.opIdx + 1 == s.ops.length

/-- The current operation has direction `d` and all its bytes are transferred (R28). -/
def finished (d : Dir) (s : State) : Bool :=
  match currentOp s with
  | some op => op.dir == d && decide (op.length ≤ s.byteIdx)
  | none => false

/-- The current operation is a Read and byte `N - 1` is its next (R191). -/
def lastByteNext (s : State) : Bool :=
  match currentOp s with
  | some (.read n) => s.byteIdx + 1 == n
  | _ => false

/-! ## The address byte -/

/-- `addr_byte(addr, dir) = addr[6:0] ++ dirbit(dir)` (R98). -/
def addrByte (addr : Byte) (d : Dir) : Byte := addrByteBits (addr.extractLsb' 0 7) d

/-! ## The host buffer space -/

/-- The memory address of byte `i` of the buffer of operation `k` in call number `call`: the pair (k, i) of R60, kept
apart from the buffers of other calls. `Nat.pair` is one-to-one and has no bound. -/
def bufAddr (call k i : Nat) : Nat := Nat.pair call (Nat.pair k i)

/-- Reading one byte of memory; `none` where the block has stored nothing. -/
def memRead : Memory → Nat → Option Byte
  | [], _ => none
  | (a, b) :: rest, x => if x = a then some b else memRead rest x

/-- Writing one byte of memory; keeps the canonical form. -/
def memWrite : Memory → Nat → Byte → Memory
  | [], x, v => [(x, v)]
  | (a, b) :: rest, x, v =>
    if x < a then (x, v) :: (a, b) :: rest
    else if x = a then (x, v) :: rest
    else (a, b) :: memWrite rest x v

/-- `MemRead(k, i)`: byte `i` of the byte slice of Write operation `k` (R11); `none` where there is no such byte. -/
def sliceByte (s : State) (k i : Nat) : Option Byte :=
  match s.ops[k]? with
  | some (.write bs) => bs[i]?
  | _ => none

/-- Index `i` lies in the buffer of Read operation `k` (R66: "any (k, i) with `i < len(ops[k])` is a legal address"). -/
def inReadBuffer (s : State) (k i : Nat) : Bool :=
  match s.ops[k]? with
  | some (.read n) => decide (i < n)
  | _ => false

/-- The byte that the block has stored at index `i` of the Read buffer of operation `k` in the current call. -/
def bufferByte (s : State) (k i : Nat) : Option Byte := memRead s.mem (bufAddr s.call k i)

end Sys2Proof.Machine
end

