-- ==== Sys2Proof/Machine/Ops.lean ====
section
/-! DEFINITION. The named operations every meaning is made of: the primitives of R11, ending a command (`finish_ok`,
R217) and the abort (R258), accepting a command (R210), the start of a bus command (R213), `dispatch` and `next_op`
(R214, R215), `byte_done` (R187), and the two points of a wait (R125). -/

namespace Sys2Proof.Machine

/-- What a meaning answers. -/
abbrev Ans := Host.Outcome State Fault Refusal

/-! ## Primitives (R11): each appends its event to the history -/

/-- `ctl <- P`. -/
def goto (p : Point) (s : State) : State := { s with ctl := p }

/-- Appending to the history (R70). -/
def log (e : Event) (s : State) : State := { s with hist := s.hist ++ [e] }

/-- `RegModify(CTRL, ...)`: one atomic modify of the listed fields. -/
def modCtrl (a : CtrlAssign) (s : State) : State :=
  { s with regs := { s.regs with ctrl := assignCtrl s.regs.ctrl a }, hist := s.hist ++ [.modCtrl a] }

/-- `RegClear(F)`: writes 0 to one fault flag. -/
def regClear (f : FaultFlag) (s : State) : State :=
  { s with regs := { s.regs with sts := clearFlag f s.regs.sts }, hist := s.hist ++ [.clr f] }

/-- `RegWrite(DATA, b)`. -/
def writeData (b : Byte) (s : State) : State :=
  { s with regs := { s.regs with txData := b }, hist := s.hist ++ [.wrData b] }

/-- `RegWrite(CFG, c)`. -/
def writeCfg (c : Timing) (s : State) : State :=
  { s with regs := { s.regs with cfg := c }, hist := s.hist ++ [.wrCfg c] }

/-- `snap <- RegRead(STS)`: the one status read of a poll. -/
def readStatus (s : State) : State :=
  { s with
    snap := visibleStatus s.params s.regs.sts
    hist := s.hist ++ [.rdSts (visibleStatus s.params s.regs.sts)] }

/-- `RegRead(STS2)`; the answer is `s.regs.sts2`. -/
def readStatus2 (s : State) : State := log (.rdSts2 s.regs.sts2) s

/-- `RegRead(STOP_PENDING)`; the answer is `s.regs.stopPending`. -/
def readStopPending (s : State) : State := log (.rdStopPending s.regs.stopPending) s

/-- `v <- RegRead(DATA)[7:0]; MemWrite(k, i, v)` with `(k, i) = (op_idx, byte_idx)` (R186): the byte goes to the Read
buffer and to RDATA (R102). -/
def receiveByte (s : State) : State :=
  { s with
    mem := memWrite s.mem (bufAddr s.call s.opIdx s.byteIdx) s.regs.rxData
    rdata := s.rdata ++ [s.regs.rxData]
    hist := s.hist ++ [.rdData s.regs.rxData, .bufWr s.opIdx s.byteIdx s.regs.rxData] }

/-- `MemRead(op_idx, byte_idx)` of byte `b`, then `RegWrite(DATA, b)` (R182). -/
def transmitByte (b : Byte) (s : State) : State := writeData b (log (.bufRd s.opIdx s.byteIdx b) s)

/-- `Collab(ClockEnable)`. -/
def clockEnable (s : State) : State := log .collabClockEnable s

/-- `Collab(ClockReset)`: the controller's reset; the values of its fields after it are the oracle's (R281). -/
def clockReset (s : State) : State :=
  { s with
    regs := Config.controllerAfterReset s.tick
    tick := s.tick + 1
    hist := s.hist ++ [.collabClockReset] }

/-! ## The end of a command -/

/-- Delivering a result (R283): `result <- r`, `Res(r)`, `ctl <- REST`, and its byte on RESULT (R102). -/
def deliver (r : Result) (s : State) : State :=
  { s with
    result := some r
    hist := s.hist ++ [.res r]
    resOut := s.resOut ++ [resultByte r]
    ctl := .rest }

/-- `finish_ok()` (R217). -/
def finishOk (s : State) : State := deliver .ok { s with txn := { s.txn with done := true } }

/-- TAKING AN EXCEPTION: `raise Err(e)` (R258). "Nothing is saved", "Nothing is undone", "Nothing is added". There is
"no return from an abort" (R260): the next command starts as any other. -/
def raise (e : Err) (s : State) : State := deliver (.err e) s

/-! ## Accepting a command -/

/-- `Cmd(c)` is appended, `result` is emptied, the command latch takes `cmd` (R210, R23); a new call begins. NEW and
RELEASE carry no address and no operations: DESIGN CHOICE, they leave `addr` and `ops` as they were (log entry 11). -/
def accept (c : Instr) (k : CmdKind) (s : State) : State :=
  { s with hist := s.hist ++ [.cmd c], result := none, cmd := k, call := s.call + 1 }

/-- The command latch takes the address and the operations (R23). -/
def latchOps (addr : Byte) (ops : List Operation) (s : State) : State := { s with addr := addr, ops := ops }

/-- The registers at the start of a bus command (R213), with `d` the direction of the first operation. -/
def beginTxn (addr : Byte) (d : Dir) (s : State) : State :=
  { s with txn := ⟨d, addr, false⟩, opIdx := 0, byteIdx := 0, dir := d, ctl := .idlePoll }

/-- The start of a bus command in control points (R213). -/
def startBus (addr : Byte) (ops : List Operation) (s : State) : State :=
  match ops with
  | [] => finishOk s
  | op :: _ => beginTxn addr op.dir s

/-- The checks `handle_fits` and `at_rest` of R101, then the command. -/
def whenAccepted (need : Handle) (s : State) (t : State) : Ans :=
  if s.handle = need then
    if s.ctl = .rest then .next t else .refused .atRest
  else .refused .handleFits

/-- The check `addr7` of R101, then the others, then the bus command. -/
def acceptBus (c : Instr) (k : CmdKind) (addr : Byte) (ops : List Operation) (s : State) : Ans :=
  match addrCheck addr with
  | some _ => .refused .addr7
  | none => whenAccepted .bound s (startBus addr ops (latchOps addr ops (accept c k s)))

/-- The refusal of a check that the command stream fails. The last two checks are not of the command stream: only
`decode` on a result byte or on a code answers them. -/
def refusalOf : Check → Refusal
  | .opcKnown => .opcKnown
  | .hdrZero => .hdrZero
  | .addr7 => .addr7
  | .dirFits => .dirFits
  | .modeZero => .modeZero
  | .freqPos => .freqPos
  | .resultKnown | .uopKnown => .neverProduced

/-! ## The orchestrator -/

/-- The assignments of `next_op()` (R215) before it chooses its branch, `d` being the direction of the operation whose
data phase is complete. -/
def advanceOp (d : Dir) (s : State) : State :=
  { s with txn := { s.txn with prevDir := d }, opIdx := s.opIdx + 1, byteIdx := 0 }

/-- The first branch of `next_op()` (R215): a repeated START with direction `d`. -/
def turnBus (d : Dir) (s : State) : State := { s with dir := d, ctl := .idlePoll }

/-- `dispatch()` (R214) with `next_op()` (R215) on the operations from `op_idx` on. -/
def dispatchOn : List Operation → State → Ans
  | [], _ => .fault .noOperation
  | op :: later, s =>
    match op, later with
    | .write bs, [] =>
      if s.byteIdx < bs.length then .next (goto .txePoll s) else .next (goto .genStop s)
    | .read n, [] =>
      if n = 0 then .next (raise .overrun s)
      else if s.byteIdx < n then
        if s.byteIdx + 1 = n then .next (goto .armLast s) else .next (goto .rxPoll s)
      else .next (finishOk s)
    | op, op' :: _ =>
      if s.byteIdx < op.length then
        match op with
        | .write _ => .next (goto .txePoll s)
        | .read _ => .next (goto .rxPoll s)
      else if op'.dir = op.dir then dispatchOn later (advanceOp op.dir s)
      else .next (turnBus op'.dir (advanceOp op.dir s))

/-- `dispatch()` (R214). -/
def dispatch (s : State) : Ans := dispatchOn (s.ops.drop s.opIdx) s

/-- `byte_done()` (R187). -/
def byteDone (s : State) : Ans := dispatch { s with byteIdx := s.byteIdx + 1 }

/-! ## The waits -/

/-- `test(W)` (R125): the condition step of a wait, on the latched snapshot. -/
def waitTest (w : Wait) (s : State) : Ans :=
  match w with
  | .idle => .next (goto .idleCond s)
  | .started => .next (goto .startedCond s)
  | .sreq => .next (goto (if s.snap.startDone then .startedPoll else .sreqPoll) s)
  | .addr =>
    if s.snap.addrAck then
      if s.params.addrAckClearRead then .next (goto .addrAckclr s) else dispatch s
    else .next (goto .addrPoll s)
  | .txe => .next (goto (if s.snap.txEmpty then .txWrite else .txePoll) s)
  | .txc => if s.snap.xferDone then byteDone s else .next (goto .txcPoll s)
  | .rx => .next (goto (if s.snap.rxNotEmpty then .rxRead else .rxPoll) s)

/-- `pend_flag <- f; ctl <- W_CLEAR` (R125). -/
def holdFault (w : Wait) (f : FaultFlag) (s : State) : State := { s with pendFlag := f, ctl := clearPointOf w }

/-- `W_POLL` (R125). -/
def pollPoint (w : Wait) (s : State) : Ans :=
  match firstFault (visibleStatus s.params s.regs.sts) with
  | none => waitTest w (readStatus s)
  | some f => .next (holdFault w f (readStatus s))

/-- `W_CLEAR` (R125): the bus-error flag is ignored and the wait goes on; any other flag aborts the command. -/
def clearPoint (w : Wait) (s : State) : Ans :=
  match errOf s.pendFlag with
  | none => waitTest w (regClear s.pendFlag s)
  | some e => .next (raise (retag (tagOf w) e) (regClear s.pendFlag s))

/-! ## The other control points -/

/-- `IDLE_COND` (R141). -/
def idleCond (s : State) : State :=
  goto (if s.regs.stopPending then .idlePoll else match s.dir with | .read => .sreqAckEn | .write => .sreqStart)
    (readStopPending s)

/-- `SREQ_ACK_EN` (R142). -/
def setAck (s : State) : State := goto .sreqStart (modCtrl { ackEn := some true } s)

/-- `SREQ_START` (R143). -/
def genStart (s : State) : State := goto .sreqPoll (modCtrl { startReq := some true } s)

/-- `STARTED_COND` (R163). -/
def startedCond (s : State) : State :=
  goto (if masterFree s.regs.sts2 then .addrWrite else .startedPoll) (readStatus2 s)

/-- `ADDR_WRITE` (R164) with the byte `b`. -/
def sendAddress (b : Byte) (s : State) : State := goto .addrPoll (writeData b s)

/-- `ADDR_ACKCLR` (R166), "present only when the parameter `ADDR_ACK_CLEAR_READ` is true": the answer of the read is
discarded, then `Ready`. Without the parameter its code is reserved (93_implementation_defined.md U16). -/
def ackClear (s : State) : Ans :=
  if s.params.addrAckClearRead then dispatch (readStatus2 s) else .fault .reservedPoint

/-- `TX_WRITE` (R182). -/
def txWrite (s : State) : Ans :=
  match sliceByte s s.opIdx s.byteIdx with
  | none => .fault .bufferRange
  | some b => .next (goto .txcPoll (transmitByte b s))

/-- `RX_READ` (R186). -/
def rxRead (s : State) : Ans :=
  if inReadBuffer s s.opIdx s.byteIdx then byteDone (receiveByte s) else .fault .bufferRange

/-- `ARM_LAST` (R144): one modify that assigns both fields. -/
def armLast (s : State) : State := goto .rxPoll (modCtrl { ackEn := some false, stopReq := some true } s)

/-- `GEN_STOP` (R145). -/
def genStop (s : State) : State := finishOk (modCtrl { stopReq := some true } s)

/-- `NEW_ENABLE` (R241). -/
def newEnable (s : State) : State := goto .newReset (clockEnable s)

/-- `NEW_RESET` (R241). -/
def newReset (s : State) : State := goto .newApply (clockReset s)

/-- `NEW_APPLY` (R241). -/
def newApply (s : State) : State :=
  deliver .ok { writeCfg (Config.timing s.cfg.mode s.cfg.clockHz) s with handle := .bound }

/-- The action of each control point (R24). -/
def runPoint (p : Point) (s : State) : Ans :=
  match p with
  | .rest => .next s
  | .newEnable => .next (newEnable s)
  | .newReset => .next (newReset s)
  | .newApply => .next (newApply s)
  | .idlePoll => pollPoint .idle s
  | .idleClear => clearPoint .idle s
  | .idleCond => .next (idleCond s)
  | .sreqAckEn => .next (setAck s)
  | .sreqStart => .next (genStart s)
  | .sreqPoll => pollPoint .sreq s
  | .sreqClear => clearPoint .sreq s
  | .startedPoll => pollPoint .started s
  | .startedClear => clearPoint .started s
  | .startedCond => .next (startedCond s)
  | .addrWrite => .next (sendAddress (addrByte s.txn.addr s.dir) s)
  | .addrPoll => pollPoint .addr s
  | .addrClear => clearPoint .addr s
  | .txePoll => pollPoint .txe s
  | .txeClear => clearPoint .txe s
  | .txWrite => txWrite s
  | .txcPoll => pollPoint .txc s
  | .txcClear => clearPoint .txc s
  | .rxPoll => pollPoint .rx s
  | .rxClear => clearPoint .rx s
  | .rxRead => rxRead s
  | .armLast => .next (armLast s)
  | .genStop => .next (genStop s)
  | .addrAckclr => ackClear s
  | .reserved1C | .reserved1D | .reserved1E | .reserved1F => .fault .reservedPoint

end Sys2Proof.Machine
end

