-- ==== Sys2Proof/Machine/MicroOps.lean ====
section
/-! DEFINITION. The meanings of the micro-operations, format UOP (R104). A micro-operation is a procedure of several
control points, and the block does one control point a step (R12): executing a micro-operation is its next step. Inside
its own control points that is the point `ctl` names; from anywhere else it is its entry point, which is its encoding
(spec/opcode_table.json: "encoding = its entry control point"). The slice or buffer that a data phase works on is that of
the current operation; where there is none of its kind the entry point is all that the encoding names (log entry 6). -/

namespace Sys2Proof.Machine

/-- The next step of a procedure: the point `ctl` names if that is one of its own, else its entry. -/
def nextStepOf (points : List Point) (entry : Ans) (s : State) : Ans :=
  if s.ctl ∈ points then runPoint s.ctl s else entry

/-- POLL_ERRORS (R120): the read of STS at the caller's `*_POLL` point, then the clear at its `*_CLEAR` point. -/
def execPollErrors (caller : Wait) (s : State) : Ans :=
  if s.ctl = clearPointOf caller then clearPoint caller s else pollPoint caller s

/-- WAIT_STOP_IDLE (R141). -/
def execWaitStopIdle (s : State) : Ans := nextStepOf idlePoints (pollPoint .idle s) s

/-- SET_ACK (R142). -/
def execSetAck (s : State) : Ans := .next (setAck s)

/-- GEN_START (R143). -/
def execGenStart (s : State) : Ans := .next (genStart s)

/-- ARM_LAST (R144). -/
def execUopArmLast (s : State) : Ans := .next (armLast s)

/-- GEN_STOP (R145). -/
def execUopGenStop (s : State) : Ans := .next (genStop s)

/-- ADDRESS_PHASE (R160), entered at IDLE_POLL (R161). -/
def execAddressPhase (s : State) : Ans := nextStepOf addressPoints (pollPoint .idle s) s

/-- SEND_BYTE (R180), entered at TXE_POLL. -/
def execSendByte (s : State) : Ans := nextStepOf sendPoints (pollPoint .txe s) s

/-- RECV_BYTE (R184), entered at RX_POLL. -/
def execRecvByte (s : State) : Ans := nextStepOf recvPoints (pollPoint .rx s) s

/-- WRITE_BYTES (R188), the bytes of a Write, also those of a final one (R190); "zero bytes means no access at all", and
control goes on to `dispatch` (R214). -/
def execWriteBytes (s : State) : Ans :=
  nextStepOf sendPoints (if finished .write s then dispatch s else pollPoint .txe s) s

/-- READ_BYTES (R189), the bytes of a Read without the last-byte sequence; a length of 0 "means no access at all", and
control goes on to `dispatch` (R214). -/
def execReadBytes (s : State) : Ans :=
  nextStepOf recvPoints (if finished .read s then dispatch s else pollPoint .rx s) s

/-- WRITE_WO_PREPARE (R190): the bytes of WRITE_BYTES, then GEN_STOP. -/
def execWriteWoPrepare (s : State) : Ans :=
  nextStepOf (.genStop :: sendPoints) (if finished .write s then .next (genStop s) else pollPoint .txe s) s

/-- READ_WO_PREPARE (R191): Overrun for a length of 0, ARM_LAST before the last byte, `finish_ok` after it. -/
def execReadWoPrepare (s : State) : Ans :=
  if currentOp s = some (.read 0) then .next (raise .overrun s)
  else
    nextStepOf (.armLast :: recvPoints)
      (if lastByteNext s then .next (armLast s)
       else if finished .read s then .next (finishOk s)
       else pollPoint .rx s) s

end Sys2Proof.Machine
end

