-- ==== Sys2Proof/Machine/Points.lean ====
section
/-! DEFINITION. The meanings of the control points, format CTL (R24): one register-interface access or collaborator call each, REST excepted, and then the successor the point's own rule names (R25). -/

namespace Sys2Proof.Machine

/-- REST (R210): no access; the block waits for a command. `Machine/Fetch.lean` takes the command when one is there. -/
def execCtlRest (s : State) : Ans := .next s

/-- NEW_ENABLE (R241). -/
def execCtlNewEnable (s : State) : Ans := .next (newEnable s)

/-- NEW_RESET (R241). -/
def execCtlNewReset (s : State) : Ans := .next (newReset s)

/-- NEW_APPLY (R241). -/
def execCtlNewApply (s : State) : Ans := .next (newApply s)

/-- IDLE_POLL (R141, R125). -/
def execCtlIdlePoll (s : State) : Ans := pollPoint .idle s

/-- IDLE_CLEAR (R141, R125). -/
def execCtlIdleClear (s : State) : Ans := clearPoint .idle s

/-- IDLE_COND (R141). -/
def execCtlIdleCond (s : State) : Ans := .next (idleCond s)

/-- SREQ_ACK_EN (R142). -/
def execCtlSreqAckEn (s : State) : Ans := .next (setAck s)

/-- SREQ_START (R143). -/
def execCtlSreqStart (s : State) : Ans := .next (genStart s)

/-- SREQ_POLL (R162, R125). -/
def execCtlSreqPoll (s : State) : Ans := pollPoint .sreq s

/-- SREQ_CLEAR (R162, R125). -/
def execCtlSreqClear (s : State) : Ans := clearPoint .sreq s

/-- STARTED_POLL (R163, R125). -/
def execCtlStartedPoll (s : State) : Ans := pollPoint .started s

/-- STARTED_CLEAR (R163, R125). -/
def execCtlStartedClear (s : State) : Ans := clearPoint .started s

/-- STARTED_COND (R163). -/
def execCtlStartedCond (s : State) : Ans := .next (startedCond s)

/-- ADDR_WRITE (R164). -/
def execCtlAddrWrite (s : State) : Ans := .next (sendAddress (addrByte s.txn.addr s.dir) s)

/-- ADDR_POLL (R165, R125). -/
def execCtlAddrPoll (s : State) : Ans := pollPoint .addr s

/-- ADDR_CLEAR (R165, R125). -/
def execCtlAddrClear (s : State) : Ans := clearPoint .addr s

/-- TXE_POLL (R181, R125). -/
def execCtlTxePoll (s : State) : Ans := pollPoint .txe s

/-- TXE_CLEAR (R181, R125). -/
def execCtlTxeClear (s : State) : Ans := clearPoint .txe s

/-- TX_WRITE (R182). -/
def execCtlTxWrite (s : State) : Ans := txWrite s

/-- TXC_POLL (R183, R125). -/
def execCtlTxcPoll (s : State) : Ans := pollPoint .txc s

/-- TXC_CLEAR (R183, R125). -/
def execCtlTxcClear (s : State) : Ans := clearPoint .txc s

/-- RX_POLL (R185, R125). -/
def execCtlRxPoll (s : State) : Ans := pollPoint .rx s

/-- RX_CLEAR (R185, R125). -/
def execCtlRxClear (s : State) : Ans := clearPoint .rx s

/-- RX_READ (R186). -/
def execCtlRxRead (s : State) : Ans := rxRead s

/-- ARM_LAST (R144). -/
def execCtlArmLast (s : State) : Ans := .next (armLast s)

/-- GEN_STOP (R145). -/
def execCtlGenStop (s : State) : Ans := .next (genStop s)

/-- ADDR_ACKCLR (R166). -/
def execCtlAddrAckclr (s : State) : Ans := ackClear s

/-- The reserved code 0x1C: "never entered", stuck (93_implementation_defined.md U16). -/
def execCtlReserved1C (_s : State) : Ans := .fault .reservedPoint

/-- The reserved code 0x1D: "never entered", stuck (93_implementation_defined.md U16). -/
def execCtlReserved1D (_s : State) : Ans := .fault .reservedPoint

/-- The reserved code 0x1E: "never entered", stuck (93_implementation_defined.md U16). -/
def execCtlReserved1E (_s : State) : Ans := .fault .reservedPoint

/-- The reserved code 0x1F: "never entered", stuck (93_implementation_defined.md U16). -/
def execCtlReserved1F (_s : State) : Ans := .fault .reservedPoint

end Sys2Proof.Machine
end

