-- ==== Sys2Proof/Machine/Commands.lean ====
section
/-! DEFINITION. The meanings of format H: the six commands (R211 to R222, R240 to R245) and the ten reserved opcodes (R101). -/

namespace Sys2Proof.Machine

/-- NEW (R240): latches `cfg` and hands control to NEW_ENABLE; the checks `freq_pos`, `handle_fits`, `at_rest` first. -/
def execNew (mode : Mode) (clockHz : Nat) (alert : Bool) (s : State) : Ans :=
  if mode.frequency = 0 then .refused .freqPos
  else
    whenAccepted .unbound s
      { accept (.new mode clockHz alert) .new s with cfg := ⟨mode, clockHz, alert⟩, ctl := .newEnable }

/-- READ (R221): with an empty buffer the immediate Overrun of R212, else TRANSACTION(addr, [OpRead(len)]). Either way
`txn`, `op_idx`, `byte_idx` and `dir` are set as for every bus command (R27, R28, with the values of R213). -/
def execRead (addr : Byte) (len : Nat) (s : State) : Ans :=
  if len = 0 then
    match addrCheck addr with
    | some _ => .refused .addr7
    | none =>
      whenAccepted .bound s
        (raise .overrun (startBus addr [.read len] (latchOps addr [.read len] (accept (.read addr len) .read s))))
  else acceptBus (.read addr len) .read addr [.read len] s

/-- WRITE (R220): exactly TRANSACTION(addr, [OpWrite(bytes)]). -/
def execWrite (addr : Byte) (bytes : List Byte) (s : State) : Ans :=
  acceptBus (.write addr bytes) .write addr [.write bytes] s

/-- WRITE_READ (R222): exactly TRANSACTION(addr, [OpWrite(bytes), OpRead(len)]), for every input. -/
def execWriteRead (addr : Byte) (bytes : List Byte) (len : Nat) (s : State) : Ans :=
  acceptBus (.writeRead addr bytes len) .writeRead addr [.write bytes, .read len] s

/-- TRANSACTION (R211, R213). -/
def execTransaction (addr : Byte) (ops : List Operation) (s : State) : Ans :=
  acceptBus (.transaction addr ops) .transaction addr ops s

/-- RELEASE (R243): ends in the step that accepts it, with no access. -/
def execRelease (s : State) : Ans :=
  whenAccepted .bound s (deliver .ok { accept .release .release s with handle := .unbound })

/-- RESERVED_OPC_0: refused by `opc_known` (R101, 93_implementation_defined.md U17). -/
def execReservedOpc0 (_low : BitVec 12) (_s : State) : Ans := .refused .opcKnown

/-- RESERVED_OPC_7: refused by `opc_known` (R101, 93_implementation_defined.md U17). -/
def execReservedOpc7 (_low : BitVec 12) (_s : State) : Ans := .refused .opcKnown

/-- RESERVED_OPC_8: refused by `opc_known` (R101, 93_implementation_defined.md U17). -/
def execReservedOpc8 (_low : BitVec 12) (_s : State) : Ans := .refused .opcKnown

/-- RESERVED_OPC_9: refused by `opc_known` (R101, 93_implementation_defined.md U17). -/
def execReservedOpc9 (_low : BitVec 12) (_s : State) : Ans := .refused .opcKnown

/-- RESERVED_OPC_A: refused by `opc_known` (R101, 93_implementation_defined.md U17). -/
def execReservedOpcA (_low : BitVec 12) (_s : State) : Ans := .refused .opcKnown

/-- RESERVED_OPC_B: refused by `opc_known` (R101, 93_implementation_defined.md U17). -/
def execReservedOpcB (_low : BitVec 12) (_s : State) : Ans := .refused .opcKnown

/-- RESERVED_OPC_C: refused by `opc_known` (R101, 93_implementation_defined.md U17). -/
def execReservedOpcC (_low : BitVec 12) (_s : State) : Ans := .refused .opcKnown

/-- RESERVED_OPC_D: refused by `opc_known` (R101, 93_implementation_defined.md U17). -/
def execReservedOpcD (_low : BitVec 12) (_s : State) : Ans := .refused .opcKnown

/-- RESERVED_OPC_E: refused by `opc_known` (R101, 93_implementation_defined.md U17). -/
def execReservedOpcE (_low : BitVec 12) (_s : State) : Ans := .refused .opcKnown

/-- RESERVED_OPC_F: refused by `opc_known` (R101, 93_implementation_defined.md U17). -/
def execReservedOpcF (_low : BitVec 12) (_s : State) : Ans := .refused .opcKnown

/-- The command that the decoder has read from the command stream; it reads nothing but format H. -/
def execCommand (i : Instr) (s : State) : Ans :=
  match i with
  | .new m clk al => execNew m clk al s
  | .read a n => execRead a n s
  | .write a bs => execWrite a bs s
  | .writeRead a bs n => execWriteRead a bs n s
  | .transaction a ops => execTransaction a ops s
  | .release => execRelease s
  | _ => .refused .opcKnown

end Sys2Proof.Machine
end

