-- ==== Sys2Proof/Machine/Stream.lean ====
section
/-! DEFINITION. The meanings of the operand words, formats M, N and D (R93 to R95). None is a command: each is one word
of a command's layout (R96), so executing one is the block receiving that word on the command stream while it rests. The
word goes behind those already received; when the stream then spells a command, the command is accepted in the same
silent step (R210), and when it fails a check of R101 it is refused. -/

namespace Sys2Proof.Machine

/-- One word arrives on the command stream (R96). -/
def receiveWord (w : Word) (s : State) : Ans :=
  if s.ctl = .rest then
    match decodeCommand (s.cmdIn ++ [w]) s.wdata with
    | .done i ws bs => execCommand i { s with cmdIn := ws, wdata := bs }
    | .incomplete => .next { s with cmdIn := s.cmdIn ++ [w] }
    | .refused c => .refused (refusalOf c)
  else .refused .atRest

/-- MODE_WORD (R93): the second word of NEW. -/
def execModeWord (kind : SpeedKind) (duty : Duty) (alert : Bool) (s : State) : Ans :=
  receiveWord (modeWordBits kind duty alert) s

/-- COUNT_WORD (R95): the second word of TRANSACTION. -/
def execCountWord (nops : BitVec 16) (s : State) : Ans := receiveWord nops s

/-- OP_WRITE (R94): a descriptor that spells OpWrite of the next `len` bytes of WDATA. -/
def execOpWrite (len : BitVec 15) (s : State) : Ans := receiveWord (dirBit .write ++ len) s

/-- OP_READ (R94): a descriptor that spells OpRead(len). -/
def execOpRead (len : BitVec 15) (s : State) : Ans := receiveWord (dirBit .read ++ len) s

end Sys2Proof.Machine
end

