-- ==== Sys2Proof/Machine/Wire.lean ====
section
/-! DEFINITION. The meanings of the address bytes, format W8 (R98: the value written to DATA in an address phase), and of the result bytes, format R8 (R99: the result that ends a command). -/

namespace Sys2Proof.Machine

/-- ADDR_BYTE_W (R98): the write address phase puts `addr ++ 0` into DATA (R164). -/
def execAddrByteW (addr : BitVec 7) (s : State) : Ans := .next (sendAddress (addrByteBits addr .write) s)

/-- ADDR_BYTE_R (R98): the read address phase puts `addr ++ 1` into DATA (R164). -/
def execAddrByteR (addr : BitVec 7) (s : State) : Ans := .next (sendAddress (addrByteBits addr .read) s)

/-- RES_OK: the command ends with Ok, `finish_ok` (R217). -/
def execResOk (s : State) : Ans := .next (finishOk s)

/-- The result Err(Overrun) (R251): the abort of R258 with that error. -/
def execResErrOverrun (s : State) : Ans := .next (raise .overrun s)

/-- The result Err(NoAcknowledge{Address}) (R252): the abort of R258 with that error. -/
def execResErrNoackAddress (s : State) : Ans := .next (raise (.noAcknowledge .address) s)

/-- The result Err(NoAcknowledge{Data}) (R252): the abort of R258 with that error. -/
def execResErrNoackData (s : State) : Ans := .next (raise (.noAcknowledge .data) s)

/-- The result Err(NoAcknowledge{Unknown}) (R252): the abort of R258 with that error. -/
def execResErrNoackUnknown (s : State) : Ans := .next (raise (.noAcknowledge .unknown) s)

/-- The result Err(Timeout) (R253): the abort of R258 with that error. -/
def execResErrTimeout (s : State) : Ans := .next (raise .timeout s)

/-- RES_ERR_BUS: "never actually surfaced", "no rule of this spec produces it" (R255). -/
def execResErrBus (_s : State) : Ans := .refused .neverProduced

/-- The result Err(Crc) (R255): the abort of R258 with that error. -/
def execResErrCrc (s : State) : Ans := .next (raise .crc s)

/-- The result Err(ArbitrationLoss) (R254): the abort of R258 with that error. -/
def execResErrArbitrationLoss (s : State) : Ans := .next (raise .arbitrationLoss s)

end Sys2Proof.Machine
end

