-- ==== Sys2Proof/Machine/Dispatch.lean ====
section
/-! DEFINITION. The meaning of every instruction: one arm per constructor of `Instr`. -/

namespace Sys2Proof.Machine

def exec (i : Instr) (s : State) : Host.Outcome State Fault Refusal :=
  match i with
  | .new mode clockHz alert => Sys2Proof.Machine.execNew mode clockHz alert s
  | .read addr len => Sys2Proof.Machine.execRead addr len s
  | .write addr bytes => Sys2Proof.Machine.execWrite addr bytes s
  | .writeRead addr bytes len => Sys2Proof.Machine.execWriteRead addr bytes len s
  | .transaction addr ops => Sys2Proof.Machine.execTransaction addr ops s
  | .release => Sys2Proof.Machine.execRelease s
  | .reservedOpc0 low => Sys2Proof.Machine.execReservedOpc0 low s
  | .reservedOpc7 low => Sys2Proof.Machine.execReservedOpc7 low s
  | .reservedOpc8 low => Sys2Proof.Machine.execReservedOpc8 low s
  | .reservedOpc9 low => Sys2Proof.Machine.execReservedOpc9 low s
  | .reservedOpcA low => Sys2Proof.Machine.execReservedOpcA low s
  | .reservedOpcB low => Sys2Proof.Machine.execReservedOpcB low s
  | .reservedOpcC low => Sys2Proof.Machine.execReservedOpcC low s
  | .reservedOpcD low => Sys2Proof.Machine.execReservedOpcD low s
  | .reservedOpcE low => Sys2Proof.Machine.execReservedOpcE low s
  | .reservedOpcF low => Sys2Proof.Machine.execReservedOpcF low s
  | .modeWord kind duty alert => Sys2Proof.Machine.execModeWord kind duty alert s
  | .countWord nops => Sys2Proof.Machine.execCountWord nops s
  | .opWrite len => Sys2Proof.Machine.execOpWrite len s
  | .opRead len => Sys2Proof.Machine.execOpRead len s
  | .addrByteW addr => Sys2Proof.Machine.execAddrByteW addr s
  | .addrByteR addr => Sys2Proof.Machine.execAddrByteR addr s
  | .resOk => Sys2Proof.Machine.execResOk s
  | .resErrOverrun => Sys2Proof.Machine.execResErrOverrun s
  | .resErrNoackAddress => Sys2Proof.Machine.execResErrNoackAddress s
  | .resErrNoackData => Sys2Proof.Machine.execResErrNoackData s
  | .resErrNoackUnknown => Sys2Proof.Machine.execResErrNoackUnknown s
  | .resErrTimeout => Sys2Proof.Machine.execResErrTimeout s
  | .resErrBus => Sys2Proof.Machine.execResErrBus s
  | .resErrCrc => Sys2Proof.Machine.execResErrCrc s
  | .resErrArbitrationLoss => Sys2Proof.Machine.execResErrArbitrationLoss s
  | .ctlRest => Sys2Proof.Machine.execCtlRest s
  | .ctlNewEnable => Sys2Proof.Machine.execCtlNewEnable s
  | .ctlNewReset => Sys2Proof.Machine.execCtlNewReset s
  | .ctlNewApply => Sys2Proof.Machine.execCtlNewApply s
  | .ctlIdlePoll => Sys2Proof.Machine.execCtlIdlePoll s
  | .ctlIdleClear => Sys2Proof.Machine.execCtlIdleClear s
  | .ctlIdleCond => Sys2Proof.Machine.execCtlIdleCond s
  | .ctlSreqAckEn => Sys2Proof.Machine.execCtlSreqAckEn s
  | .ctlSreqStart => Sys2Proof.Machine.execCtlSreqStart s
  | .ctlSreqPoll => Sys2Proof.Machine.execCtlSreqPoll s
  | .ctlSreqClear => Sys2Proof.Machine.execCtlSreqClear s
  | .ctlStartedPoll => Sys2Proof.Machine.execCtlStartedPoll s
  | .ctlStartedClear => Sys2Proof.Machine.execCtlStartedClear s
  | .ctlStartedCond => Sys2Proof.Machine.execCtlStartedCond s
  | .ctlAddrWrite => Sys2Proof.Machine.execCtlAddrWrite s
  | .ctlAddrPoll => Sys2Proof.Machine.execCtlAddrPoll s
  | .ctlAddrClear => Sys2Proof.Machine.execCtlAddrClear s
  | .ctlTxePoll => Sys2Proof.Machine.execCtlTxePoll s
  | .ctlTxeClear => Sys2Proof.Machine.execCtlTxeClear s
  | .ctlTxWrite => Sys2Proof.Machine.execCtlTxWrite s
  | .ctlTxcPoll => Sys2Proof.Machine.execCtlTxcPoll s
  | .ctlTxcClear => Sys2Proof.Machine.execCtlTxcClear s
  | .ctlRxPoll => Sys2Proof.Machine.execCtlRxPoll s
  | .ctlRxClear => Sys2Proof.Machine.execCtlRxClear s
  | .ctlRxRead => Sys2Proof.Machine.execCtlRxRead s
  | .ctlArmLast => Sys2Proof.Machine.execCtlArmLast s
  | .ctlGenStop => Sys2Proof.Machine.execCtlGenStop s
  | .ctlAddrAckclr => Sys2Proof.Machine.execCtlAddrAckclr s
  | .ctlReserved1C => Sys2Proof.Machine.execCtlReserved1C s
  | .ctlReserved1D => Sys2Proof.Machine.execCtlReserved1D s
  | .ctlReserved1E => Sys2Proof.Machine.execCtlReserved1E s
  | .ctlReserved1F => Sys2Proof.Machine.execCtlReserved1F s
  | .pollErrors caller => Sys2Proof.Machine.execPollErrors caller s
  | .waitStopIdle => Sys2Proof.Machine.execWaitStopIdle s
  | .setAck => Sys2Proof.Machine.execSetAck s
  | .genStart => Sys2Proof.Machine.execGenStart s
  | .uopArmLast => Sys2Proof.Machine.execUopArmLast s
  | .uopGenStop => Sys2Proof.Machine.execUopGenStop s
  | .addressPhase => Sys2Proof.Machine.execAddressPhase s
  | .sendByte => Sys2Proof.Machine.execSendByte s
  | .recvByte => Sys2Proof.Machine.execRecvByte s
  | .writeBytes => Sys2Proof.Machine.execWriteBytes s
  | .readBytes => Sys2Proof.Machine.execReadBytes s
  | .writeWoPrepare => Sys2Proof.Machine.execWriteWoPrepare s
  | .readWoPrepare => Sys2Proof.Machine.execReadWoPrepare s

end Sys2Proof.Machine
end

