-- ==== Sys2Proof/Machine/Fetch.lean ====
section
/-! DEFINITION. What a step does around the meaning of an instruction: taking the next instruction (the command stream
at REST, the value of `ctl` elsewhere), and the environment's move after the step (R12, R68). -/

namespace Sys2Proof.Machine

/-- The next instruction, and the state with its words and bytes taken. At REST (R210) it is the command that the stream
spells, or REST itself while the stream holds no whole command; elsewhere it is the control point in `ctl` (R24). -/
def fetch (s : State) : Except Refusal (Instr × State) :=
  if s.ctl = .rest then
    match decodeCommand s.cmdIn s.wdata with
    | .done i ws bs => .ok (i, { s with cmdIn := ws, wdata := bs })
    | .incomplete => .ok (.ctlRest, s)
    | .refused c => .error (refusalOf c)
  else .ok (pointInstr s.ctl, s)

/-- The host owns the controller's registers: no handle exists (R243) and no NEW is in progress, during which the host
may touch "nothing of the controller" (R303). -/
def hostOwns (s : State) : Bool := s.handle == .unbound && s.ctl == .rest

/-- The controller after a move of the environment: every status field and the byte to be read take any value (R68); a
request is taken back or stays (R140); `ACK_EN`, the byte written and CFG are the block's while it owns them (R63), and
the host's own while `owned` says that the host owns the registers (R243). -/
def moveRegs (owned : Bool) (m : EnvMove) (r : Controller) : Controller where
  ctrl :=
    match owned, m.owner with
    | true, some o => o.ctrl
    | _, _ =>
      { startReq := r.ctrl.startReq && !m.takeStart
        stopReq := r.ctrl.stopReq && !m.takeStop
        ackEn := r.ctrl.ackEn }
  stopPending := m.stopPending
  sts := m.sts
  sts2 := m.sts2
  txData := match owned, m.owner with
    | true, some o => o.txData
    | _, _ => r.txData
  rxData := m.rxData
  cfg := match owned, m.owner with
    | true, some o => o.cfg
    | _, _ => r.cfg

/-- The environment's next move: one laid down in the state, else a free one. -/
def nextMove (s : State) : EnvMove :=
  match s.env with
  | m :: _ => m
  | [] => Config.freeMove s.tick

/-- "Between any two steps the environment may change any status field any number of times" (R12). -/
def envStep (s : State) : State :=
  { s with
    regs := moveRegs (hostOwns s) (nextMove s) s.regs
    env := s.env.tail
    tick := s.tick + 1 }

/-- The environment moves after a step that has a next state. -/
def settle (a : Ans) : Ans :=
  match a with
  | .next s => .next (envStep s)
  | .fault f => .fault f
  | .refused r => .refused r

/-! ## Placing one instruction of the opcode table where the next step takes it -/

/-- The handle state in which the command of a header word is accepted (R245). -/
def handleFor (w : Word) (h : Handle) : Handle :=
  match (headerOpc w).toNat with
  | 1 => .unbound
  | 2 | 3 | 4 | 5 | 6 => .bound
  | _ => h

/-- A row of 16 bits: its words are the command stream of a block at rest, whose handle is in the state in which the
block takes that command at all (R245). -/
def placeWords (ws : List Word) (s : State) : State :=
  { s with ctl := .rest, cmdIn := ws, handle := handleFor (ws.headD 0) s.handle }

/-- A control point: it stands in `ctl`. TX_WRITE and RX_READ exist only inside a data phase, so where the command latch
holds no byte for them it gets an operation of one byte. ADDR_ACKCLR exists only with its parameter (R166), which is set. -/
def placePoint (p : Point) (s : State) : State :=
  match p with
  | .rest => { s with ctl := .rest, cmdIn := [] }
  | .txWrite =>
    if (sliceByte s s.opIdx s.byteIdx).isSome then { s with ctl := .txWrite }
    else { s with ctl := .txWrite, ops := [.write [0]], opIdx := 0, byteIdx := 0, dir := .write }
  | .rxRead =>
    if inReadBuffer s s.opIdx s.byteIdx then { s with ctl := .rxRead }
    else { s with ctl := .rxRead, ops := [.read 1], opIdx := 0, byteIdx := 0, dir := .read }
  | .addrAckclr => { s with ctl := .addrAckclr, params := { s.params with addrAckClearRead := true } }
  | p => { s with ctl := p }

/-- An address byte is written by ADDR_WRITE (R164): the next step writes exactly this byte. -/
def placeAddrByte (b : Byte) (s : State) : State :=
  { s with
    ctl := .addrWrite
    txn := { s.txn with addr := b.extractLsb' 1 7 |>.zeroExtend 8 }
    dir := if b.getLsbD 0 then .read else .write }

/-- The wait whose `*_CLEAR` point delivers an error of the monitor, and the flag it has seen (R250). -/
def placeFault (p : Point) (f : FaultFlag) (s : State) : State := { s with ctl := p, pendFlag := f }

/-- A row of 5 or 8 bits. A result byte is delivered by the step that ends a command with it: the next step is such a
one (GEN_STOP for Ok, a `*_CLEAR` point for an error). -/
def placeSmall (w : Nat) (s : State) : State :=
  match decodeSmall w with
  | .addrByteW _ | .addrByteR _ => placeAddrByte (BitVec.ofNat 8 w) s
  | .resOk => { s with ctl := .genStop }
  | .resErrOverrun => placeFault .idleClear .overrun s
  | .resErrNoackAddress => placeFault .addrClear .ackfail s
  | .resErrNoackData => placeFault .txcClear .ackfail s
  | .resErrNoackUnknown => placeFault .idleClear .ackfail s
  | .resErrTimeout => placeFault .idleClear .timeout s
  | .resErrBus => placeFault .idleClear .buserr s
  | .resErrCrc => placeFault .idleClear .pec s
  | .resErrArbitrationLoss => placeFault .idleClear .arlost s
  | _ => placePoint (pointOf (BitVec.ofNat 5 w)) s

/-- One row of the opcode table, given by its number, where the next step takes it. -/
def placeTableWord (nbits w : Nat) (s : State) : State :=
  if nbits ≤ 8 then placeSmall w s else placeWords (tableWords nbits w) s

end Sys2Proof.Machine
end

