-- ==== Sys2Proof/Machine/History.lean ====
section
/-! DEFINITION. The counting functions on a segment of the history (R75) and what the checks of 95_test_vectors.md
section 6 ask of it. The block reads the history never (R70): nothing here is used by a meaning. -/

namespace Sys2Proof.Machine

/-- The event opens a command. -/
def isCmd : Event → Bool
  | .cmd _ => true
  | _ => false

/-- The segment of the command in progress, or of the last one: the events after the last `Cmd` (R75). -/
def segmentOf (h : List Event) : List Event := (h.reverse.takeWhile fun e => !isCmd e).reverse

/-- `Mod(CTRL, A)` with `START_REQ := 1` in `A`. -/
def isStart : Event → Bool
  | .modCtrl a => a.startReq == some true
  | _ => false

/-- `Mod(CTRL, A)` with `STOP_REQ := 1` in `A`. -/
def isStop : Event → Bool
  | .modCtrl a => a.stopReq == some true
  | _ => false

/-- `Mod(CTRL, A)` with `ACK_EN := 0` and `STOP_REQ := 1` in `A`. -/
def isArm : Event → Bool
  | .modCtrl a => a.ackEn == some false && a.stopReq == some true
  | _ => false

/-- `Mod(CTRL, {ACK_EN := 1})`. -/
def isAck : Event → Bool
  | .modCtrl a => a.ackEn == some true
  | _ => false

/-- The number of `Mod(CTRL, {ACK_EN := 1})` events (R147). -/
def nAck (seg : List Event) : Nat := seg.countP isAck

/-- `n_start` (R75). -/
def nStart (seg : List Event) : Nat := seg.countP isStart

/-- `n_stop` (R75). -/
def nStop (seg : List Event) : Nat := seg.countP isStop

/-- The last `Mod(CTRL, A)` event of the segment makes the STOP request. -/
def stopIsLast (seg : List Event) : Bool :=
  let writes := seg.filterMap fun
    | .modCtrl a => some a
    | _ => none
  match writes.getLast? with
  | some a => a.stopReq == some true
  | none => false

/-- `n_arm` (R75). -/
def nArm (seg : List Event) : Nat := seg.countP isArm

/-- The bytes of the `Wr(DATA, b)` events that ADDR_WRITE issued: those without a `BufRd` before them (R75, R182). -/
def addressBytes : List Event → List Byte
  | [] => []
  | .bufRd _ _ _ :: .wrData _ :: rest => addressBytes rest
  | .wrData b :: rest => b :: addressBytes rest
  | _ :: rest => addressBytes rest

/-- `n_addr` (R75). -/
def nAddr (seg : List Event) : Nat := (addressBytes seg).length

/-- The data bytes sent: those that TX_WRITE took from a slice, in order. -/
def sentBytes (seg : List Event) : List Byte :=
  seg.filterMap fun
    | .bufRd _ _ b => some b
    | _ => none

/-- The data bytes stored into Read buffers, in order. -/
def storedBytes (seg : List Event) : List Byte :=
  seg.filterMap fun
    | .bufWr _ _ v => some v
    | _ => none

/-- The values of the `Rd(DATA, v)` events, in order. -/
def readBytes (seg : List Event) : List Byte :=
  seg.filterMap fun
    | .rdData v => some v
    | _ => none

/-- A register-interface access or a collaborator call (R12, R24). -/
def isAccess : Event → Bool
  | .rdSts _ | .rdSts2 _ | .rdStopPending _ | .rdData _ | .modCtrl _ | .clr _ | .wrData _ | .wrCfg _ => true
  | .collabClockEnable | .collabClockReset => true
  | .bufRd _ _ _ | .bufWr _ _ _ | .cmd _ | .res _ => false

/-- The event is `Cmd` or `Res`. -/
def isBracket : Event → Bool
  | .cmd _ | .res _ => true
  | _ => false

/-- "zero bus activity" (R75): "the segment holds no event but `Cmd` and `Res`". -/
def noBusActivity (seg : List Event) : Bool := seg.all isBracket

end Sys2Proof.Machine
end

