-- ==== Sys2Proof/Safety.lean ====
section
/-! DEFINITION. What counts as a sound state and a sound history, in the terms that claims use: the invariant of the
block's registers, the checks that a history must pass (95_test_vectors.md section 6), the relation between states that
differ in nothing the block reads, and what an environment answers. -/

namespace Sys2Proof.Machine

/-! ## The invariant of the block's registers -/

/-- The three control points of NEW (R241). -/
def newPoints : List Point := [.newEnable, .newReset, .newApply]

/-- The commands that use the bus. -/
def isBusCmd : CmdKind → Bool
  | .read | .write | .writeRead | .transaction => true
  | .new | .release => false

/-- A control point of a bus command: neither REST nor one of NEW. -/
def inBusCommand (p : Point) : Prop := p ≠ .rest ∧ p ∉ newPoints

/-- Where in the current operation each control point of a bus command stands (R142, R144, R145, R161, R214). -/
def PlaceOk (s : State) (op : Operation) : Prop :=
  (s.ctl ∈ addressPoints → s.byteIdx = 0) ∧
  (s.ctl ∈ sendPoints → op.dir = .write ∧ s.byteIdx < op.length) ∧
  (s.ctl ∈ recvPoints → op.dir = .read ∧ s.byteIdx < op.length) ∧
  (s.ctl = .armLast → op.dir = .read ∧ s.byteIdx + 1 = op.length ∧ isFinal s = true) ∧
  (s.ctl = .genStop → op.dir = .write ∧ s.byteIdx = op.length ∧ isFinal s = true) ∧
  (s.ctl = .sreqAckEn → op.dir = .read)

/-- The registers during a bus command: `cmd` names one (R23), the handle is bound, no result is delivered yet, the target address is the
latched one and has 7 bits, and `op_idx`, `byte_idx` and `dir` stand in the sequence. -/
structure BusOk (s : State) : Prop where
  command : isBusCmd s.cmd = true
  bound : s.handle = .bound
  noResult : s.result = none
  notDone : s.txn.done = false
  sameAddr : s.txn.addr = s.addr
  addr7 : addrCheck s.addr = none
  place : ∃ op, currentOp s = some op ∧ s.dir = op.dir ∧ PlaceOk s op

/-- THE INVARIANT. Memory is canonical; `ctl` "only ever holds one of the 28 named codes" (R25), 0x1B only with its
parameter (R166); a `*_CLEAR` point follows the poll that saw its flag first (R125); the handle fits the control point
(R245) and `cmd` too (R23); a bound handle was built with a frequency above 0 (R22); no result is `Err(Bus)` (R255). -/
structure Inv (s : State) : Prop where
  memory : s.mem.wf
  named : isReserved s.ctl = false
  ackParam : s.ctl = .addrAckclr → s.params.addrAckClearRead = true
  observed : ∀ w, s.ctl = clearPointOf w → firstFault s.snap = some s.pendFlag ∧ s.hist.getLast? = some (.rdSts s.snap)
  building : s.ctl ∈ newPoints → s.cmd = .new ∧ s.handle = .unbound ∧ s.result = none
  bus : inBusCommand s.ctl → BusOk s
  frequency : s.handle = .bound ∨ s.ctl ∈ newPoints → 0 < s.cfg.mode.frequency
  noBusError : s.result ≠ some (.err .bus)

/-- The error that the `*_CLEAR` point of a wait raises for a flag: the tables of R250 and R271. -/
def raisedError : Wait → FaultFlag → Option Err
  | _, .timeout => some .timeout
  | _, .pec => some .crc
  | _, .overrun => some .overrun
  | _, .arlost => some .arbitrationLoss
  | _, .buserr => none
  | .idle, .ackfail | .sreq, .ackfail | .started, .ackfail => some (.noAcknowledge .unknown)
  | .addr, .ackfail | .txe, .ackfail => some (.noAcknowledge .address)
  | .txc, .ackfail | .rx, .ackfail => some (.noAcknowledge .data)

/-- The control points that hand control to `dispatch` when their condition holds (R214). -/
def dispatchPoints : List Point := [.addrPoll, .addrClear, .addrAckclr, .txcPoll, .txcClear, .rxRead]

/-- The `*_POLL` points (R26). -/
def pollPoints : List Point := [.idlePoll, .sreqPoll, .startedPoll, .addrPoll, .txePoll, .txcPoll, .rxPoll]

/-- The `*_CLEAR` points (R26). -/
def clearPoints : List Point := [.idleClear, .sreqClear, .startedClear, .addrClear, .txeClear, .txcClear, .rxClear]

/-! ## Checks on a history -/

/-- Every `Clr(F)` stands right after an `Rd(STS, s)` whose first fault, in the order of R121, is `F` (R124). -/
def ClearsObserved (h : List Event) : Prop :=
  ∀ j f, h[j]? = some (.clr f) → ∃ k v, j = k + 1 ∧ h[k]? = some (.rdSts v) ∧ firstFault v = some f

/-- Every `Res(Err(e))` but an Overrun stands right after the clear of the flag of `e`, re-tagged or not (R125, R250). -/
def ErrorsObserved (h : List Event) : Prop :=
  ∀ j e, h[j]? = some (.res (.err e)) → e ≠ .overrun →
    ∃ k f tag e₀, j = k + 1 ∧ h[k]? = some (.clr f) ∧ errOf f = some e₀ ∧ e = retag tag e₀

/-- Nothing but the next command follows a result (R258, R283). -/
def ResultsLast (h : List Event) : Prop :=
  ∀ j r e, h[j]? = some (.res r) → h[j + 1]? = some e → isCmd e = true

/-- No result is `Err(Bus)` (R255). -/
def NoBusResult (h : List Event) : Prop := .res (.err .bus) ∉ h

/-- The history passes the checks on clears and results. -/
structure HistoryOk (h : List Event) : Prop where
  clears : ClearsObserved h
  errors : ErrorsObserved h
  results : ResultsLast h
  noBus : NoBusResult h

/-- At REST the history is empty or ends in a result; elsewhere it does not end in a result (R283). -/
def HistoryEnds (s : State) : Prop :=
  ∀ e, s.hist.getLast? = some e → (s.ctl = .rest ↔ ∃ r, e = .res r)

/-- Every START request stands right after a read of `STOP_PENDING` that answered 0, or after the acknowledge-enable
that stands right after one (R141 to R143). -/
def StartsAfterIdle (h : List Event) : Prop :=
  ∀ j, h[j]? = some (.modCtrl { startReq := some true }) →
    ∃ k, j = k + 1 ∧
      (h[k]? = some (.rdStopPending false) ∨
        h[k]? = some (.modCtrl { ackEn := some true }) ∧ ∃ m, k = m + 1 ∧ h[m]? = some (.rdStopPending false))

/-- What the two points before a START request know of the history. -/
def StartReady (s : State) : Prop :=
  (s.ctl = .sreqAckEn → s.hist.getLast? = some (.rdStopPending false)) ∧
  (s.ctl = .sreqStart →
    s.hist.getLast? = some (.rdStopPending false) ∨
      ∃ h, s.hist = h ++ [.rdStopPending false, .modCtrl { ackEn := some true }])

/-- STOP has been requested: the last byte of a final Read is awaited, after ARM_LAST (R144). -/
def armed (s : State) : Bool :=
  decide (s.ctl ∈ recvPoints) && isFinal s && lastByteNext s

/-- STOP requests of the command in progress or just ended (R147): during a command none before ARM_LAST and one after
it; after the `Ok` of a bus command one if the sequence has an operation and none if it has none; after any end at most
one. "The one STOP request is the last `Mod(CTRL, ...)` event of the command". -/
structure StopCount (s : State) : Prop where
  running : s.ctl ≠ .rest → nStop (segmentOf s.hist) = (if armed s then 1 else 0)
  armedLast : s.ctl ≠ .rest → armed s = true → stopIsLast (segmentOf s.hist) = true
  succeeded : s.ctl = .rest → isBusCmd s.cmd = true → s.result = some .ok →
    nStop (segmentOf s.hist) = (if s.ops = [] then 0 else 1) ∧ (s.ops ≠ [] → stopIsLast (segmentOf s.hist) = true)
  ended : s.ctl = .rest → nStop (segmentOf s.hist) ≤ 1

/-! ## States that differ in nothing the block reads -/

/-- Two states that agree in everything but `cmd` and the history. -/
def SameButCmd (s t : State) : Prop := { s with cmd := t.cmd, hist := t.hist } = t

/-- Two outcomes of one step from `s` and `t`: both next, agreeing in everything but `cmd` and the history, and with the
same new events; or the same fault or refusal. -/
def SameSteps (s t : State) (a b : Ans) : Prop :=
  match a, b with
  | .next s', .next t' => SameButCmd s' t' ∧ ∃ es, s'.hist = s.hist ++ es ∧ t'.hist = t.hist ++ es
  | .fault f, .fault g => f = g
  | .refused r, .refused q => r = q
  | _, _ => False

/-! ## What a TRANSACTION does, counted from its sequence (R147, R211) -/

/-- The number of positions `k >= 1` with `dir(ops[k]) != dir(ops[k-1])`, after an operation of direction `d` (R147). -/
def turnsAfter : Dir → List Operation → Nat
  | _, [] => 0
  | d, op :: rest => (if op.dir = d then 0 else 1) + turnsAfter op.dir rest

/-- The directions of the address phases after an operation of direction `d`, in order (R211). -/
def phasesAfter : Dir → List Operation → List Dir
  | _, [] => []
  | d, op :: rest => if op.dir = d then phasesAfter op.dir rest else op.dir :: phasesAfter op.dir rest

/-- The directions of the address phases of a sequence, in order (R211). -/
def phasesOf : List Operation → List Dir
  | [] => []
  | op :: rest => op.dir :: phasesAfter op.dir rest

/-- The final operation is a Read (R147). -/
def endsInRead (ops : List Operation) : Bool :=
  match ops.getLast? with
  | some (.read _) => true
  | _ => false

/-- The final operation is a Read of length 0, which READ_WO_PREPARE rejects (R191, R219). -/
def endsInEmptyRead (ops : List Operation) : Bool := ops.getLast? == some (.read 0)

/-- The number of bytes that a sequence reads. -/
def bytesRead (ops : List Operation) : Nat :=
  (ops.map fun
    | .read n => n
    | .write _ => 0).sum

/-- The control points of one address phase when every wait exits at its first poll: 8 for Write, 9 for Read (R160). -/
def phasePoints : Dir → Nat
  | .write => 8
  | .read => 9

/-- The control points of one data phase when every wait exits at its first poll: 3 a byte sent, 2 a byte received. -/
def dataPoints : Operation → Nat
  | .write bs => 3 * bs.length
  | .read n => 2 * n

/-- The control points of a whole sequence when every wait exits at its first poll; one more for the STOP request, which
a final Read of length 0 does not reach (R191, R211). -/
def promptPoints (ops : List Operation) : Nat :=
  ((phasesOf ops).map phasePoints).sum + (ops.map dataPoints).sum + (if endsInEmptyRead ops then 0 else 1)

/-! ## The history of one command, followed through its sequence (R75, R147, R211; 95_test_vectors.md section 6) -/

/-- The START request of the current address phase has been made. -/
def startMade (p : Point) : Bool := p ∉ [.idlePoll, .idleClear, .idleCond, .sreqAckEn, .sreqStart]

/-- The acknowledge-enable of the current address phase, if it is a read one, has been made. -/
def ackMade (p : Point) : Bool := p ∉ [.idlePoll, .idleClear, .idleCond, .sreqAckEn]

/-- The address byte of the current address phase has been written. -/
def addressMade (p : Point) : Bool :=
  startMade p && p ∉ [.sreqPoll, .sreqClear, .startedPoll, .startedClear, .startedCond, .addrWrite]

/-- The directions of the address phases of the operations up to the current one, in order. -/
def phasesHere (s : State) : List Dir := phasesOf (s.ops.take (s.opIdx + 1))

/-- The same, without the current phase while it has not made its mark. -/
def begun (made : Bool) (phases : List Dir) : List Dir := if made then phases else phases.dropLast

/-- The bytes of the current operation that TX_WRITE has taken: those counted, and one more until it is counted. -/
def taken (s : State) : Nat := s.byteIdx + (if s.ctl = .txcPoll ∨ s.ctl = .txcClear then 1 else 0)

/-- What the segment of a bus command in progress holds. -/
structure Progress (s : State) : Prop where
  starts : nStart (segmentOf s.hist) = (begun (startMade s.ctl) (phasesHere s)).length
  addresses : addressBytes (segmentOf s.hist) = (begun (addressMade s.ctl) (phasesHere s)).map (addrByte s.addr)
  acks : nAck (segmentOf s.hist) = (begun (ackMade s.ctl) (phasesHere s)).count .read
  arms : nArm (segmentOf s.hist) = (if armed s then 1 else 0)
  sent : sentBytes (segmentOf s.hist) =
    (s.ops.take s.opIdx).flatMap Operation.wdata ++ (currentOp s).elim [] fun op => op.wdata.take (taken s)
  stored : (storedBytes (segmentOf s.hist)).length =
    bytesRead (s.ops.take s.opIdx) + (if s.dir = .read then s.byteIdx else 0)
  read : readBytes (segmentOf s.hist) = storedBytes (segmentOf s.hist)

/-- What the segment of a bus command that ended in `Ok` holds. -/
structure Complete (s : State) : Prop where
  starts : nStart (segmentOf s.hist) = (phasesOf s.ops).length
  addresses : addressBytes (segmentOf s.hist) = (phasesOf s.ops).map (addrByte s.addr)
  acks : nAck (segmentOf s.hist) = (phasesOf s.ops).count .read
  arms : nArm (segmentOf s.hist) = (if endsInRead s.ops then 1 else 0)
  sent : sentBytes (segmentOf s.hist) = s.ops.flatMap Operation.wdata
  stored : (storedBytes (segmentOf s.hist)).length = bytesRead s.ops
  read : readBytes (segmentOf s.hist) = storedBytes (segmentOf s.hist)

/-- The segment follows the sequence: in progress, and at the end in `Ok`. A `BufRd` is never left without its write. -/
structure SegmentOk (s : State) : Prop where
  progress : inBusCommand s.ctl → Progress s
  complete : s.ctl = .rest → isBusCmd s.cmd = true → s.result = some .ok → Complete s
  paired : ∀ k i b, s.hist.getLast? ≠ some (.bufRd k i b)

/-! ## No timeout -/

/-- No trace of a bus timeout in the block's registers: the snapshot does not show the flag, no `*_CLEAR` point holds it,
and no result is `Err(Timeout)` (R127). -/
structure NoTimeout (s : State) : Prop where
  snapshot : s.snap.timeout = false
  held : ∀ w, s.ctl = clearPointOf w → s.pendFlag ≠ .timeout
  noResult : s.result ≠ some (.err .timeout)

/-! ## Environments -/

/-- The environment answers the wait that the block is in at its first poll: no fault flag shows, and what the control
point awaits is there (R26, R141, R163). Away from the waits it may answer anything. -/
structure AnsweredAtOnce (s : State) : Prop where
  poll : ∀ w, s.ctl = pollPointOf w →
    firstFault (visibleStatus s.params s.regs.sts) = none ∧ awaitedFlag s.regs.sts w = true
  idle : s.ctl = .idleCond → s.regs.stopPending = false
  started : s.ctl = .startedCond → masterFree s.regs.sts2 = true

/-- Answers that never let W_STARTED exit: no fault flag shows, and MASTER = 1 with BUSY = 0 is not read (R163). -/
def KeepsBusy (p : Params) (sts : Status) (sts2 : Status2) : Prop :=
  firstFault (visibleStatus p sts) = none ∧ masterFree sts2 = false

/-- A snapshot with every event flag set and no fault flag. -/
def promptStatus : Status :=
  ⟨false, false, false, false, false, false, true, true, true, true, true⟩

/-- A move that answers every wait of the block at once, whichever it is in, with `v` in the receive register: one way to
lay down an environment that answers at once. -/
def promptMove (v : Byte) : EnvMove where
  stopPending := false
  sts := promptStatus
  sts2 := ⟨true, false⟩
  rxData := v
  takeStart := false
  takeStop := false
  owner := none

/-- The block rests with its handle bound and nothing on the command stream but one command. -/
def Holds (c : Instr) (s : State) : Prop :=
  s.ctl = .rest ∧ s.handle = .bound ∧ s.cmdIn = encodeWords c ∧ s.wdata = encodeBytes c

end Sys2Proof.Machine
end

