-- ==== Sys2Proof/Certificates/Slice0/Obligations.lean ====
section
/-! DEFINITION. The statements for the provers. Each docstring names the rules it formalises; what rests on a choice of
the model names the entry of the assumption log. -/

open Sys2Proof Sys2Proof.Machine

/-- R96 (with R92 to R95, R102, R108): the layout of every command, read back whole, with whatever follows it left over. -/
def Obligations.DecodeUndoesEncodeOnCommands : Prop :=
  ∀ (i : Instr) (ws : List Word) (bs : List Byte),
    i.format = .h → (WellFormed i = true ∨ i.failing = some .opcKnown) → Fits i = true →
    decodeCommand (encodeWords i ++ ws) (encodeBytes i ++ bs) = .done i ws bs

/-- R101: "every stream either spells exactly one command or is refused"; the converse of DecodeUndoesEncodeOnCommands. -/
def Obligations.EncodeUndoesDecodeOnCommands : Prop :=
  ∀ (i : Instr) (ws ws' : List Word) (bs bs' : List Byte),
    decodeCommand ws bs = .done i ws' bs' →
    i.format = .h ∧ ws = encodeWords i ++ ws' ∧ bs = encodeBytes i ++ bs' ∧ Fits i = true ∧
      (WellFormed i = true ∨ i.failing = some .opcKnown)

/-- R93, R94, R95, R98, R99, R24: no bit of these encodings is dropped. A micro-operation has no encoding on the command
stream (R104); that its image is its entry control point is the note of its row in spec/opcode_table.json, and that a code
is read as the list of all that enter there is the model's choice (log entries 6 and 16). -/
def Obligations.DecodeUndoesEncodeOnOtherFormats : Prop :=
  ∀ i : Instr, i.format ≠ .h → WellFormed i = true →
    (i.format ≠ .uop → decode i.format (encode i) = .done i [] []) ∧
    (i.format = .uop → ∃ c, encode i = .code c ∧ i ∈ decodeUop c)

/-- 95_test_vectors.md section 2: words written out from the spec's encodings. -/
def Obligations.StreamWordsDecodeAsListed : Prop :=
  decodeCommand [0x1000, 0x0000, 0x86A0, 0x0001, 0x1200, 0x007A] [] = .done (.new (.standard 100000) 8000000 false) [] [] ∧
  decodeCommand [0x1000, 0xC000, 0x1A80, 0x0006, 0x5100, 0x0225] [] =
    .done (.new (.fast 400000 .duty16to9) 36000000 false) [] [] ∧
  decodeCommand [0x2050, 0x8002] [] = .done (.read 0x50 2) [] [] ∧
  decodeCommand [0x3050, 0x0001] [0xAB] = .done (.write 0x50 [0xAB]) [] [] ∧
  decodeCommand [0x4068, 0x0001, 0x8001] [0x75] = .done (.writeRead 0x68 [0x75] 1) [] [] ∧
  decodeCommand [0x5050, 0x0004, 0x0001, 0x8001, 0x8002, 0x0000] [0x01] =
    .done (.transaction 0x50 [.write [0x01], .read 1, .read 2, .write []]) [] [] ∧
  decodeCommand [0x6000] [] = .done .release [] [] ∧
  decodeCommand [0x3150, 0x0001] [0xAB] = .refused .hdrZero ∧
  decodeCommand [0x1001, 0x0000, 0x86A0, 0x0001, 0x1200, 0x007A] [] = .refused .hdrZero ∧
  decodeCommand [0x3080, 0x0001] [0xAB] = .refused .addr7 ∧
  decodeCommand [0x3050, 0x8001] [] = .refused .dirFits ∧
  decodeCommand [0x4068, 0x8001, 0x0001] [0x75] = .refused .dirFits ∧
  decodeCommand [0x1000, 0x4000, 0x86A0, 0x0001, 0x1200, 0x007A] [] = .refused .modeZero ∧
  decodeCommand [0x1000, 0x0000, 0x0000, 0x0000, 0x1200, 0x007A] [] = .refused .freqPos

/-- R98: `addr_byte(addr, dir) = addr[6:0] ++ dirbit(dir)`, "equivalently `(2 * addr + dirbit(dir)) mod 256`". -/
def Obligations.AddressByteIsTwiceTheAddressPlusDirection : Prop :=
  ∀ addr : Byte, addr.toNat < 128 →
    (addrByte addr .write).toNat = 2 * addr.toNat ∧
    (addrByte addr .read).toNat = 2 * addr.toNat + 1 ∧
    addrByte addr .write = addr.extractLsb' 0 7 ++ 0#1 ∧
    addrByte addr .read = addr.extractLsb' 0 7 ++ 1#1 ∧
    decodeAddrByte (addrByte addr .write) = .addrByteW (addr.extractLsb' 0 7) ∧
    decodeAddrByte (addrByte addr .read) = .addrByteR (addr.extractLsb' 0 7)

/-- R99: the codes of the nine results. -/
def Obligations.ResultBytesAreTheNineCodes : Prop :=
  resultByte .ok = 0x00 ∧ resultByte (.err .overrun) = 0x80 ∧
  resultByte (.err (.noAcknowledge .address)) = 0x90 ∧ resultByte (.err (.noAcknowledge .data)) = 0x91 ∧
  resultByte (.err (.noAcknowledge .unknown)) = 0x92 ∧ resultByte (.err .timeout) = 0xA0 ∧
  resultByte (.err .bus) = 0xB0 ∧ resultByte (.err .crc) = 0xC0 ∧ resultByte (.err .arbitrationLoss) = 0xD0

/-- R40: the display packing, marked there as general knowledge; no rule of the block depends on it. -/
def Obligations.DisplayPackingKeepsTheNamedBits : Prop :=
  (∀ s : Status, unpackStatus (packStatus s) = s) ∧ (∀ r : Status2, unpackStatus2 (packStatus2 r) = r) ∧
  (∀ c : Ctrl, unpackCtrl (packCtrl c) = c) ∧
  (∀ w : Word, packStatus (unpackStatus w) = w &&& 0x5FC7#16) ∧
  (∀ w : Word, packStatus2 (unpackStatus2 w) = w &&& 0x0003#16) ∧
  (∀ w : Word, packCtrl (unpackCtrl w) = w &&& 0x0700#16)

/-- R12, R24, R101, R210: what a step takes and what stands around the meaning. The model's choices in it: that the block
waits while the stream is incomplete and that a refused stream ends the run (log entry 9), and that the environment makes
exactly one move after each step (log entry 8). -/
def Obligations.StepRunsTheFetchedInstruction : Prop :=
  (∀ (s : State) (i : Instr) (ws : List Word) (bs : List Byte), s.ctl = .rest →
    decodeCommand s.cmdIn s.wdata = .done i ws bs →
    step s = settle (exec i { s with cmdIn := ws, wdata := bs })) ∧
  (∀ s : State, s.ctl = .rest → decodeCommand s.cmdIn s.wdata = .incomplete → step s = settle (exec .ctlRest s)) ∧
  (∀ (s : State) (c : Check), s.ctl = .rest → decodeCommand s.cmdIn s.wdata = .refused c →
    step s = .refused (refusalOf c)) ∧
  (∀ s : State, s.ctl ≠ .rest → step s = settle (exec (pointInstr s.ctl) s)) ∧
  (∀ t : State, settle (.next t) = .next (envStep t)) ∧
  (∀ f : Fault, settle (.fault f) = .fault f) ∧ (∀ r : Refusal, settle (.refused r) = .refused r)

/-- R44, R280 and R210: the reset values the spec gives, and that the block waits in REST. -/
def Obligations.ResetRestsUnbound : Prop :=
  State.reset.handle = .unbound ∧ State.reset.ctl = .rest ∧ State.reset.result = none ∧ State.reset.hist = [] ∧
  State.reset.mem.wf ∧ (∀ s : State, exec .ctlRest s = .next s) ∧
  ∃ t, step State.reset = .next t ∧ t.ctl = .rest ∧ t.hist = [] ∧ t.handle = .unbound ∧ t.result = none

/-- R8, R12, R63, R68: what the environment may and may not change. Taking requests back only, and writing CTRL, DATA
and CFG only while unbound and at REST (R303), is log entry 8. -/
def Obligations.EnvironmentMovesOnlyTheController : Prop :=
  (∀ s : State, envStep s =
    { s with regs := (envStep s).regs, env := (envStep s).env, tick := (envStep s).tick }) ∧
  (∀ s : State, s.handle = .bound ∨ s.ctl ≠ .rest →
    (envStep s).regs.ctrl.ackEn = s.regs.ctrl.ackEn ∧ (envStep s).regs.txData = s.regs.txData ∧
    (envStep s).regs.cfg = s.regs.cfg ∧
    ((envStep s).regs.ctrl.startReq = true → s.regs.ctrl.startReq = true) ∧
    ((envStep s).regs.ctrl.stopReq = true → s.regs.ctrl.stopReq = true)) ∧
  (∀ (s : State) (rest : List EnvMove) (v : Status) (r : Status2) (p : Bool) (b : Byte), ∃ m : EnvMove,
    (envStep { s with env := m :: rest }).regs.sts = v ∧ (envStep { s with env := m :: rest }).regs.sts2 = r ∧
    (envStep { s with env := m :: rest }).regs.stopPending = p ∧ (envStep { s with env := m :: rest }).regs.rxData = b)

/-- R240, R241 with the frame. The value after the controller's reset is a free value (log entry 2). That NEW leaves `addr`
and `ops` of the command latch as they were is the model's choice (log entry 11). -/
def Obligations.NewLatchesTheModeAndBuilds : Prop :=
  pointCode .newEnable = 0x01 ∧ pointCode .newReset = 0x02 ∧ pointCode .newApply = 0x03 ∧
  (∀ (s : State) (m : Mode) (clk : Nat) (al : Bool), 0 < m.frequency → s.handle = .unbound → s.ctl = .rest →
    exec (.new m clk al) s = .next { s with
      cfg := ⟨m, clk, al⟩, cmd := .new, result := none, hist := s.hist ++ [.cmd (.new m clk al)],
      call := s.call + 1, ctl := .newEnable }) ∧
  (∀ s : State, exec .ctlNewEnable s = .next { s with hist := s.hist ++ [.collabClockEnable], ctl := .newReset }) ∧
  (∀ s : State, exec .ctlNewReset s = .next { s with
      regs := Config.controllerAfterReset s.tick, tick := s.tick + 1,
      hist := s.hist ++ [.collabClockReset], ctl := .newApply }) ∧
  (∀ s : State, exec .ctlNewApply s = .next { s with
      regs := { s.regs with cfg := Config.timing s.cfg.mode s.cfg.clockHz }, handle := .bound, result := some .ok,
      hist := s.hist ++ [.wrCfg (Config.timing s.cfg.mode s.cfg.clockHz), .res .ok],
      resOut := s.resOut ++ [0x00], ctl := .rest })

/-- R243 with the frame. That RELEASE leaves `addr` and `ops` of the command latch as they were is the model's choice (log
entry 11); that it leaves `cfg` is read from the spec by inference (log entry 23). -/
def Obligations.ReleaseUnbindsWithNoAccess : Prop :=
  ∀ s : State, s.handle = .bound → s.ctl = .rest →
    exec .release s = .next { s with
      handle := .unbound, cmd := .release, result := some .ok, hist := s.hist ++ [.cmd .release, .res .ok],
      resOut := s.resOut ++ [0x00], call := s.call + 1, ctl := .rest }

/-- R212 with the frame. That `txn`, `op_idx`, `byte_idx` and `dir` are set, too, is R27 and R28, and that they take the
values R213 gives for `[OpRead(0)]` is read from the spec by inference (log entry 11). -/
def Obligations.EmptyReadOverrunsWithNoAccess : Prop :=
  ∀ (s : State) (a : Byte), a.toNat < 128 → s.handle = .bound → s.ctl = .rest →
    exec (.read a 0) s = .next { s with
      cmd := .read, addr := a, ops := [.read 0], result := some (.err .overrun),
      hist := s.hist ++ [.cmd (.read a 0), .res (.err .overrun)], resOut := s.resOut ++ [0x80],
      call := s.call + 1, txn := ⟨.read, a, false⟩, opIdx := 0, byteIdx := 0, dir := .read, ctl := .rest } ∧
    ∃ t, exec (.transaction a [.read 0]) s = .next t ∧ t.ctl = .idlePoll ∧ t.result = none ∧ t.dir = .read

/-- R213, R220, R221 and R222 with the frame. -/
def Obligations.BusCommandsStartTheirTransaction : Prop :=
  ∀ (s : State) (a : Byte), a.toNat < 128 → s.handle = .bound → s.ctl = .rest →
    (∀ n, 0 < n → exec (.read a n) s = .next { s with
      cmd := .read, addr := a, ops := [.read n], result := none, hist := s.hist ++ [.cmd (.read a n)],
      call := s.call + 1, txn := ⟨.read, a, false⟩, opIdx := 0, byteIdx := 0, dir := .read, ctl := .idlePoll }) ∧
    (∀ bs, exec (.write a bs) s = .next { s with
      cmd := .write, addr := a, ops := [.write bs], result := none, hist := s.hist ++ [.cmd (.write a bs)],
      call := s.call + 1, txn := ⟨.write, a, false⟩, opIdx := 0, byteIdx := 0, dir := .write, ctl := .idlePoll }) ∧
    (∀ bs n, exec (.writeRead a bs n) s = .next { s with
      cmd := .writeRead, addr := a, ops := [.write bs, .read n], result := none,
      hist := s.hist ++ [.cmd (.writeRead a bs n)],
      call := s.call + 1, txn := ⟨.write, a, false⟩, opIdx := 0, byteIdx := 0, dir := .write, ctl := .idlePoll }) ∧
    (∀ op rest, exec (.transaction a (op :: rest)) s = .next { s with
      cmd := .transaction, addr := a, ops := op :: rest, result := none,
      hist := s.hist ++ [.cmd (.transaction a (op :: rest))],
      call := s.call + 1, txn := ⟨op.dir, a, false⟩, opIdx := 0, byteIdx := 0, dir := op.dir, ctl := .idlePoll })

/-- R219, R223 (d): "returns success and issues zero bus activity". -/
def Obligations.EmptyTransactionSucceedsWithNoAccess : Prop :=
  ∀ (s : State) (a : Byte), a.toNat < 128 → s.handle = .bound → s.ctl = .rest →
    ∃ t, exec (.transaction a []) s = .next t ∧ noBusActivity (segmentOf t.hist) = true ∧
      t = { s with
        cmd := .transaction, addr := a, ops := [], result := some .ok, txn := { s.txn with done := true },
        hist := s.hist ++ [.cmd (.transaction a []), .res .ok], resOut := s.resOut ++ [0x00],
        call := s.call + 1, ctl := .rest }

/-- R101, R245. The order in which several failing checks answer is log entry 7. -/
def Obligations.CommandsAreRefusedByName : Prop :=
  (∀ (s : State) (m : Mode) (clk : Nat) (al : Bool),
    (m.frequency = 0 → exec (.new m clk al) s = .refused .freqPos) ∧
    (0 < m.frequency → s.handle = .bound → exec (.new m clk al) s = .refused .handleFits) ∧
    (0 < m.frequency → s.handle = .unbound → s.ctl ≠ .rest → exec (.new m clk al) s = .refused .atRest)) ∧
  (∀ s : State,
    (s.handle = .unbound → exec .release s = .refused .handleFits) ∧
    (s.handle = .bound → s.ctl ≠ .rest → exec .release s = .refused .atRest)) ∧
  (∀ (s : State) (a : Byte) (n : Nat) (bs : List Byte) (ops : List Operation) (c : Instr),
    c = .read a n ∨ c = .write a bs ∨ c = .writeRead a bs n ∨ c = .transaction a ops →
    (128 ≤ a.toNat → exec c s = .refused .addr7) ∧
    (a.toNat < 128 → s.handle = .unbound → exec c s = .refused .handleFits) ∧
    (a.toNat < 128 → s.handle = .bound → s.ctl ≠ .rest → exec c s = .refused .atRest))

/-- R101, R24, R255, U6, U16, U17. That a reserved point stops as a fault is log entry 5; that executing RES_ERR_BUS is a
refusal is log entry 20. -/
def Obligations.ReservedRowsStop : Prop :=
  (∀ (s : State) (low : BitVec 12),
    exec (.reservedOpc0 low) s = .refused .opcKnown ∧ exec (.reservedOpc7 low) s = .refused .opcKnown ∧
    exec (.reservedOpc8 low) s = .refused .opcKnown ∧ exec (.reservedOpc9 low) s = .refused .opcKnown ∧
    exec (.reservedOpcA low) s = .refused .opcKnown ∧ exec (.reservedOpcB low) s = .refused .opcKnown ∧
    exec (.reservedOpcC low) s = .refused .opcKnown ∧ exec (.reservedOpcD low) s = .refused .opcKnown ∧
    exec (.reservedOpcE low) s = .refused .opcKnown ∧ exec (.reservedOpcF low) s = .refused .opcKnown) ∧
  (∀ s : State,
    exec .ctlReserved1C s = .fault .reservedPoint ∧ exec .ctlReserved1D s = .fault .reservedPoint ∧
    exec .ctlReserved1E s = .fault .reservedPoint ∧ exec .ctlReserved1F s = .fault .reservedPoint ∧
    exec .resErrBus s = .refused .neverProduced)

/-- R93 to R96, R102. That executing an operand word is receiving it, and that the block waits while WDATA is short, are
log entries 6 and 9. -/
def Obligations.OperandWordsArriveOnTheStream : Prop :=
  ∀ (s : State) (a : Byte), a.toNat < 128 → s.ctl = .rest →
    (∀ (k : SpeedKind) (d : Duty) (al : Bool), s.cmdIn = [headerWord 1 0] →
      (k = .fast ∨ d = .duty2to1 →
        exec (.modeWord k d al) s = .next { s with cmdIn := [headerWord 1 0, modeWordBits k d al] }) ∧
      (k = .standard → d = .duty16to9 → exec (.modeWord k d al) s = .refused .modeZero)) ∧
    (∀ n : BitVec 16, s.cmdIn = [headerWord 5 a] →
      (n ≠ 0 → exec (.countWord n) s = .next { s with cmdIn := [headerWord 5 a, n] }) ∧
      (n = 0 → s.handle = .bound → ∃ t, exec (.countWord n) s = .next t ∧
        exec (.transaction a []) { s with cmdIn := [] } = .next t)) ∧
    (∀ len : BitVec 15, s.cmdIn = [headerWord 2 a] → s.handle = .bound →
      ∃ t, exec (.opRead len) s = .next t ∧ exec (.read a len.toNat) { s with cmdIn := [] } = .next t) ∧
    (∀ len : BitVec 15, s.cmdIn = [headerWord 3 a] →
      (len.toNat ≤ s.wdata.length → s.handle = .bound → ∃ t, exec (.opWrite len) s = .next t ∧
        exec (.write a (s.wdata.take len.toNat)) { s with cmdIn := [], wdata := s.wdata.drop len.toNat } = .next t) ∧
      (s.wdata.length < len.toNat →
        exec (.opWrite len) s = .next { s with cmdIn := [headerWord 3 a, descWord .write len.toNat] }))

/-- R96, R101: the position of a word decides what it is. Log entry 6. -/
def Obligations.OperandWordsElsewhere : Prop :=
  ∀ (s : State) (i : Instr) (w : Word),
    (∃ k d al, i = .modeWord k d al ∧ w = modeWordBits k d al) ∨ i = .countWord w ∨
      (∃ len, i = .opWrite len ∧ w = dirBit .write ++ len) ∨ (∃ len, i = .opRead len ∧ w = dirBit .read ++ len) →
    (s.ctl ≠ .rest → exec i s = .refused .atRest) ∧
    (s.ctl = .rest → ∀ (c : Instr) (ws : List Word) (bs : List Byte),
      decodeCommand (s.cmdIn ++ [w]) s.wdata = .done c ws bs →
      exec i s = exec c { s with cmdIn := ws, wdata := bs }) ∧
    (s.ctl = .rest → decodeCommand (s.cmdIn ++ [w]) s.wdata = .incomplete →
      exec i s = .next { s with cmdIn := s.cmdIn ++ [w] }) ∧
    (s.ctl = .rest → ∀ c : Check, decodeCommand (s.cmdIn ++ [w]) s.wdata = .refused c →
      exec i s = .refused (refusalOf c))

/-- R141, the point IDLE_COND, with the frame. -/
def Obligations.IdleCondWaitsOutTheStop : Prop :=
  ∀ s : State,
    (s.regs.stopPending = true →
      exec .ctlIdleCond s = .next { s with hist := s.hist ++ [.rdStopPending true], ctl := .idlePoll }) ∧
    (s.regs.stopPending = false → s.dir = .read →
      exec .ctlIdleCond s = .next { s with hist := s.hist ++ [.rdStopPending false], ctl := .sreqAckEn }) ∧
    (s.regs.stopPending = false → s.dir = .write →
      exec .ctlIdleCond s = .next { s with hist := s.hist ++ [.rdStopPending false], ctl := .sreqStart })

/-- R142, R143, R144, R145 with the frame, for the control point and the micro-operation of each. -/
def Obligations.ControlWritesAssignOnlyTheirFields : Prop :=
  (∀ (s : State) (i : Instr), i = .ctlSreqAckEn ∨ i = .setAck →
    exec i s = .next { s with
      regs := { s.regs with ctrl := { s.regs.ctrl with ackEn := true } },
      hist := s.hist ++ [.modCtrl { ackEn := some true }], ctl := .sreqStart }) ∧
  (∀ (s : State) (i : Instr), i = .ctlSreqStart ∨ i = .genStart →
    exec i s = .next { s with
      regs := { s.regs with ctrl := { s.regs.ctrl with startReq := true } },
      hist := s.hist ++ [.modCtrl { startReq := some true }], ctl := .sreqPoll }) ∧
  (∀ (s : State) (i : Instr), i = .ctlArmLast ∨ i = .uopArmLast →
    exec i s = .next { s with
      regs := { s.regs with ctrl := { s.regs.ctrl with ackEn := false, stopReq := true } },
      hist := s.hist ++ [.modCtrl { ackEn := some false, stopReq := some true }], ctl := .rxPoll }) ∧
  (∀ (s : State) (i : Instr), i = .ctlGenStop ∨ i = .uopGenStop →
    exec i s = .next { s with
      regs := { s.regs with ctrl := { s.regs.ctrl with stopReq := true } },
      hist := s.hist ++ [.modCtrl { stopReq := some true }, .res .ok],
      txn := { s.txn with done := true }, result := some .ok, resOut := s.resOut ++ [0x00], ctl := .rest })

/-- R163, the point STARTED_COND, with the frame. -/
def Obligations.StartedCondLeavesOnMasterAndFreeBus : Prop :=
  ∀ s : State,
    (s.regs.sts2 = ⟨true, false⟩ →
      exec .ctlStartedCond s = .next { s with hist := s.hist ++ [.rdSts2 ⟨true, false⟩], ctl := .addrWrite }) ∧
    (s.regs.sts2 ≠ ⟨true, false⟩ →
      exec .ctlStartedCond s = .next { s with hist := s.hist ++ [.rdSts2 s.regs.sts2], ctl := .startedPoll })

/-- R164 with R98 and the frame, for ADDR_WRITE. That the rows ADDR_BYTE_W and ADDR_BYTE_R, which R98 gives as bytes,
execute as ADDR_WRITE of their byte is log entry 6. -/
def Obligations.AddressWritePutsTheAddressByteOut : Prop :=
  (∀ s : State, s.dir = .write → exec .ctlAddrWrite s = exec (.addrByteW (s.txn.addr.extractLsb' 0 7)) s) ∧
  (∀ s : State, s.dir = .read → exec .ctlAddrWrite s = exec (.addrByteR (s.txn.addr.extractLsb' 0 7)) s) ∧
  (∀ s : State, exec .ctlAddrWrite s = .next { s with
    regs := { s.regs with txData := addrByte s.txn.addr s.dir },
    hist := s.hist ++ [.wrData (addrByte s.txn.addr s.dir)], ctl := .addrPoll }) ∧
  (∀ (s : State) (x : BitVec 7), exec (.addrByteW x) s = .next { s with
    regs := { s.regs with txData := x ++ 0#1 }, hist := s.hist ++ [.wrData (x ++ 0#1)], ctl := .addrPoll }) ∧
  (∀ (s : State) (x : BitVec 7), exec (.addrByteR x) s = .next { s with
    regs := { s.regs with txData := x ++ 1#1 }, hist := s.hist ++ [.wrData (x ++ 1#1)], ctl := .addrPoll })

/-- R121, R125: the priority of the six fault flags. -/
def Obligations.FirstFaultFollowsThePriority : Prop :=
  ∀ s : Status,
    (∀ f : FaultFlag, firstFault s = some f ↔
      faultBit s f = true ∧ ∀ g : FaultFlag, faultCode g < faultCode f → faultBit s g = false) ∧
    (firstFault s = none ↔ ∀ f : FaultFlag, faultBit s f = false)

/-- R35, R67: a clear can never clear another fault flag. -/
def Obligations.ClearingOneFlagLeavesTheOthers : Prop :=
  ∀ (f : FaultFlag) (s : Status),
    faultBit (clearFlag f s) f = false ∧ (∀ g, g ≠ f → faultBit (clearFlag f s) g = faultBit s g) ∧
    (∀ w : Wait, awaitedFlag (clearFlag f s) w = awaitedFlag s w) ∧ (faultBit s f = false → clearFlag f s = s)

/-- R125, the point W_POLL, for every wait. -/
def Obligations.PollReadsOnceAndHoldsTheFirstFault : Prop :=
  ∀ (w : Wait) (s : State) (v : Status),
    v = { s.regs.sts with timeout := s.regs.sts.timeout && s.params.hasTimeoutFlag } →
    (∀ f : FaultFlag, firstFault v = some f → exec (pointInstr (pollPointOf w)) s = .next { s with
      snap := v, hist := s.hist ++ [.rdSts v], pendFlag := f, ctl := clearPointOf w }) ∧
    (firstFault v = none →
      exec (pointInstr (pollPointOf w)) s = waitTest w { s with snap := v, hist := s.hist ++ [.rdSts v] })

/-- R26, R125, R162, R165, R181, R183, R185, R187: test(W) of every wait. -/
def Obligations.WaitTestsExitOnTheirOwnFlag : Prop :=
  ∀ s : State,
    waitTest .idle s = .next { s with ctl := .idleCond } ∧ waitTest .started s = .next { s with ctl := .startedCond } ∧
    (s.snap.startDone = true → waitTest .sreq s = .next { s with ctl := .startedPoll }) ∧
    (s.snap.startDone = false → waitTest .sreq s = .next { s with ctl := .sreqPoll }) ∧
    (s.snap.addrAck = true → s.params.addrAckClearRead = true → waitTest .addr s = .next { s with ctl := .addrAckclr }) ∧
    (s.snap.addrAck = true → s.params.addrAckClearRead = false → waitTest .addr s = dispatch s) ∧
    (s.snap.addrAck = false → waitTest .addr s = .next { s with ctl := .addrPoll }) ∧
    (s.snap.txEmpty = true → waitTest .txe s = .next { s with ctl := .txWrite }) ∧
    (s.snap.txEmpty = false → waitTest .txe s = .next { s with ctl := .txePoll }) ∧
    (s.snap.xferDone = true → waitTest .txc s = dispatch { s with byteIdx := s.byteIdx + 1 }) ∧
    (s.snap.xferDone = false → waitTest .txc s = .next { s with ctl := .txcPoll }) ∧
    (s.snap.rxNotEmpty = true → waitTest .rx s = .next { s with ctl := .rxRead }) ∧
    (s.snap.rxNotEmpty = false → waitTest .rx s = .next { s with ctl := .rxPoll })

/-- R123, R125, R126, R250, R256, R258, R271: the abort of a wait, with the frame. -/
def Obligations.ClearAbortsOrIgnoresTheHeldFlag : Prop :=
  ∀ (w : Wait) (s : State),
    (∀ e : Err, raisedError w s.pendFlag = some e → exec (pointInstr (clearPointOf w)) s = .next { s with
      regs := { s.regs with sts := clearFlag s.pendFlag s.regs.sts },
      hist := s.hist ++ [.clr s.pendFlag, .res (.err e)], result := some (.err e),
      resOut := s.resOut ++ [resultByte (.err e)], ctl := .rest }) ∧
    (s.pendFlag = .buserr → exec (pointInstr (clearPointOf w)) s = waitTest w { s with
      regs := { s.regs with sts := { s.regs.sts with buserr := false } }, hist := s.hist ++ [.clr .buserr] })

/-- R129, R123: the errata-ignore path. -/
def Obligations.BusErrorAloneNeverSurfaces : Prop :=
  ∀ (w : Wait) (s t : State), firstFault (visibleStatus s.params s.regs.sts) = some .buserr →
    t = { s with
      snap := visibleStatus s.params s.regs.sts, hist := s.hist ++ [.rdSts (visibleStatus s.params s.regs.sts)],
      pendFlag := .buserr, ctl := clearPointOf w } →
    exec (pointInstr (pollPointOf w)) s = .next t ∧
    (s.ctl = pollPointOf w → exec (.pollErrors w) s = .next t) ∧
    exec (.pollErrors w) t = waitTest w { t with
      regs := { s.regs with sts := { s.regs.sts with buserr := false } }, hist := t.hist ++ [.clr .buserr] }

/-- R182 with the frame. -/
def Obligations.TxWriteSendsTheCurrentByte : Prop :=
  pointCode .txWrite = 0x13 ∧
  (∀ (s : State) (bs : List Byte) (b : Byte), s.ops[s.opIdx]? = some (.write bs) → bs[s.byteIdx]? = some b →
    exec .ctlTxWrite s = .next { s with
      regs := { s.regs with txData := b }, hist := s.hist ++ [.bufRd s.opIdx s.byteIdx b, .wrData b], ctl := .txcPoll })

/-- R186, R187, R64 with the frame. -/
def Obligations.RxReadStoresTheReceivedByte : Prop :=
  pointCode .rxRead = 0x18 ∧
  (∀ (s : State) (n : Nat), s.ops[s.opIdx]? = some (.read n) → s.byteIdx < n →
    ∃ m : Memory,
      exec .ctlRxRead s = dispatch { s with
        mem := m, rdata := s.rdata ++ [s.regs.rxData], byteIdx := s.byteIdx + 1,
        hist := s.hist ++ [.rdData s.regs.rxData, .bufWr s.opIdx s.byteIdx s.regs.rxData] } ∧
      memRead m (bufAddr s.call s.opIdx s.byteIdx) = some s.regs.rxData ∧
      (∀ a, a ≠ bufAddr s.call s.opIdx s.byteIdx → memRead m a = memRead s.mem a) ∧ (s.mem.wf → m.wf))

/-- R66: "The block never accesses an index at or beyond the length of the buffer or slice". That the model stops with a
fault there is log entry 4. -/
def Obligations.AccessesOutsideTheOperationStop : Prop :=
  (∀ s : State, (∀ bs b, s.ops[s.opIdx]? = some (.write bs) → bs[s.byteIdx]? ≠ some b) →
    exec .ctlTxWrite s = .fault .bufferRange) ∧
  (∀ s : State, (∀ n, s.ops[s.opIdx]? = some (.read n) → n ≤ s.byteIdx) → exec .ctlRxRead s = .fault .bufferRange)

/-- R60, R64: a buffer byte is addressed by the pair (k, i), and buffers are borrowed for one call. The call number is
log entry 3. -/
def Obligations.BufferBytesHaveTheirOwnAddresses : Prop :=
  ∀ c k i c' k' i' : Nat, bufAddr c k i = bufAddr c' k' i' → c = c' ∧ k = k' ∧ i = i'

/-- R166, the point ADDR_ACKCLR, "present only when the parameter ADDR_ACK_CLEAR_READ is true" (U16 without it). That it
stops as a fault there is log entry 5. -/
def Obligations.AckClearDiscardsItsRead : Prop :=
  ∀ s : State,
    (s.params.addrAckClearRead = true →
      exec .ctlAddrAckclr s = dispatch { s with hist := s.hist ++ [.rdSts2 s.regs.sts2] }) ∧
    (s.params.addrAckClearRead = false → exec .ctlAddrAckclr s = .fault .reservedPoint)

/-- R214, R215, R217, R219: dispatch() and next_op(), every branch. -/
def Obligations.DispatchChoosesByPosition : Prop :=
  ∀ (s : State) (op : Operation), s.ops[s.opIdx]? = some op →
    (∀ bs, op = .write bs → s.byteIdx < bs.length → dispatch s = .next { s with ctl := .txePoll }) ∧
    (∀ bs, op = .write bs → bs.length ≤ s.byteIdx → s.opIdx + 1 = s.ops.length →
      dispatch s = .next { s with ctl := .genStop }) ∧
    (op = .read 0 → s.opIdx + 1 = s.ops.length → dispatch s = .next { s with
      result := some (.err .overrun), hist := s.hist ++ [.res (.err .overrun)],
      resOut := s.resOut ++ [0x80], ctl := .rest }) ∧
    (∀ n, op = .read n → s.byteIdx < n → ¬(s.opIdx + 1 = s.ops.length ∧ s.byteIdx + 1 = n) →
      dispatch s = .next { s with ctl := .rxPoll }) ∧
    (∀ n, op = .read n → s.opIdx + 1 = s.ops.length → s.byteIdx + 1 = n →
      dispatch s = .next { s with ctl := .armLast }) ∧
    (∀ n, op = .read n → 0 < n → n ≤ s.byteIdx → s.opIdx + 1 = s.ops.length → dispatch s = .next { s with
      txn := { s.txn with done := true }, result := some .ok, hist := s.hist ++ [.res .ok],
      resOut := s.resOut ++ [0x00], ctl := .rest }) ∧
    (∀ op', op.length ≤ s.byteIdx → s.ops[s.opIdx + 1]? = some op' →
      (op'.dir ≠ op.dir → dispatch s = .next { s with
        txn := { s.txn with prevDir := op.dir }, opIdx := s.opIdx + 1, byteIdx := 0, dir := op'.dir, ctl := .idlePoll }) ∧
      (op'.dir = op.dir → dispatch s = dispatch { s with
        txn := { s.txn with prevDir := op.dir }, opIdx := s.opIdx + 1, byteIdx := 0 }))

/-- R217, R258, R99: finish_ok and the abort, with the frame. That a result byte, which R99 gives as a byte on RESULT,
executes as the delivery of that result is log entry 6. -/
def Obligations.ResultRowsEndTheCommand : Prop :=
  (∀ s : State, exec .resOk s = .next { s with
    txn := { s.txn with done := true }, result := some .ok, hist := s.hist ++ [.res .ok],
    resOut := s.resOut ++ [0x00], ctl := .rest }) ∧
  (∀ (s : State) (i : Instr) (e : Err) (b : Byte),
    (i, e, b) ∈ [(Instr.resErrOverrun, Err.overrun, (0x80 : Byte)), (.resErrNoackAddress, .noAcknowledge .address, 0x90),
      (.resErrNoackData, .noAcknowledge .data, 0x91), (.resErrNoackUnknown, .noAcknowledge .unknown, 0x92),
      (.resErrTimeout, .timeout, 0xA0), (.resErrCrc, .crc, 0xC0), (.resErrArbitrationLoss, .arbitrationLoss, 0xD0)] →
    exec i s = .next { s with
      result := some (.err e), hist := s.hist ++ [.res (.err e)], resOut := s.resOut ++ [b], ctl := .rest })

/-- R104, R120, R141, R160, R161, R180, R184. One step a control point is R12; that an execution from outside the points
is the entry point is log entry 6. -/
def Obligations.MicroOperationsRunTheirOwnPoints : Prop :=
  (∀ (w : Wait) (s : State),
    (s.ctl = pollPointOf w ∨ s.ctl = clearPointOf w → exec (.pollErrors w) s = exec (pointInstr s.ctl) s) ∧
    (s.ctl ≠ clearPointOf w → exec (.pollErrors w) s = exec (pointInstr (pollPointOf w)) s)) ∧
  (∀ s : State,
    (s.ctl ∈ idlePoints → exec .waitStopIdle s = exec (pointInstr s.ctl) s) ∧
    (s.ctl ∉ idlePoints → exec .waitStopIdle s = exec .ctlIdlePoll s) ∧
    (s.ctl ∈ addressPoints → exec .addressPhase s = exec (pointInstr s.ctl) s) ∧
    (s.ctl ∉ addressPoints → exec .addressPhase s = exec .ctlIdlePoll s) ∧
    (s.ctl ∈ sendPoints → exec .sendByte s = exec (pointInstr s.ctl) s) ∧
    (s.ctl ∉ sendPoints → exec .sendByte s = exec .ctlTxePoll s) ∧
    (s.ctl ∈ recvPoints → exec .recvByte s = exec (pointInstr s.ctl) s) ∧
    (s.ctl ∉ recvPoints → exec .recvByte s = exec .ctlRxPoll s))

/-- R188 to R191, R104. That a data phase works on the slice or buffer of the current operation, wherever it stands in the
sequence, and that where there is none of its kind it is its entry point (spec/opcode_table.json: "encoding = its entry
control point") is log entry 6. -/
def Obligations.DataPhasesRunTheirOwnPoints : Prop :=
  ∀ s : State,
    (s.ctl ∈ sendPoints →
      exec .writeBytes s = exec (pointInstr s.ctl) s ∧ exec .writeWoPrepare s = exec (pointInstr s.ctl) s) ∧
    (s.ctl = .genStop → exec .writeWoPrepare s = exec (pointInstr s.ctl) s) ∧
    (s.ctl ∈ recvPoints → exec .readBytes s = exec (pointInstr s.ctl) s) ∧
    (s.ctl ∈ recvPoints ∨ s.ctl = .armLast → currentOp s ≠ some (.read 0) →
      exec .readWoPrepare s = exec (pointInstr s.ctl) s) ∧
    (∀ bs, currentOp s = some (.write bs) → s.ctl ∉ sendPoints →
      (s.byteIdx < bs.length → exec .writeBytes s = exec .ctlTxePoll s ∧
        (s.ctl ≠ .genStop → exec .writeWoPrepare s = exec .ctlTxePoll s)) ∧
      (bs.length ≤ s.byteIdx → exec .writeBytes s = dispatch s ∧ exec .writeWoPrepare s = exec .ctlGenStop s)) ∧
    (∀ n, currentOp s = some (.read n) →
      (s.ctl ∉ recvPoints → s.byteIdx < n → exec .readBytes s = exec .ctlRxPoll s) ∧
      (s.ctl ∉ recvPoints → n ≤ s.byteIdx → exec .readBytes s = dispatch s) ∧
      (n = 0 → exec .readWoPrepare s = exec .resErrOverrun s) ∧
      (s.ctl ∉ recvPoints → s.byteIdx + 1 = n → exec .readWoPrepare s = exec .ctlArmLast s) ∧
      (s.ctl ∉ recvPoints → s.ctl ≠ .armLast → s.byteIdx + 1 < n → exec .readWoPrepare s = exec .ctlRxPoll s) ∧
      (s.ctl ∉ recvPoints → s.ctl ≠ .armLast → 0 < n → n ≤ s.byteIdx → exec .readWoPrepare s = exec .resOk s)) ∧
    ((∀ bs, currentOp s ≠ some (.write bs)) → s.ctl ∉ sendPoints →
      exec .writeBytes s = exec .ctlTxePoll s ∧ (s.ctl ≠ .genStop → exec .writeWoPrepare s = exec .ctlTxePoll s)) ∧
    ((∀ n, currentOp s ≠ some (.read n)) → s.ctl ∉ recvPoints →
      exec .readBytes s = exec .ctlRxPoll s ∧ (s.ctl ≠ .armLast → exec .readWoPrepare s = exec .ctlRxPoll s)) ∧
    (∀ op, currentOp s = some op → s.ctl = .rest →
      ∃ t u v w, exec .writeBytes s = .next t ∧ exec .readBytes s = .next u ∧ exec .writeWoPrepare s = .next v ∧
        exec .readWoPrepare s = .next w)

/-- R12, R24, R62, R270: each point but REST performs exactly one access, and the block is never stuck. -/
def Obligations.EveryPointCompletesWithOneAccess : Prop :=
  ∀ s : State, Inv s → ∃ t es, exec (pointInstr s.ctl) s = .next t ∧ t.hist = s.hist ++ es ∧
    es.countP isAccess = (if s.ctl = .rest then 0 else 1)

/-- R104, R188 to R191: the micro-operation that owns the control point makes its step. -/
def Obligations.MicroOperationsCompleteInSoundStates : Prop :=
  ∀ s : State, Inv s →
    (∀ w, s.ctl = pollPointOf w ∨ s.ctl = clearPointOf w →
      ∃ t, exec (.pollErrors w) s = .next t ∧ exec (pointInstr s.ctl) s = .next t) ∧
    (s.ctl ∈ idlePoints → ∃ t, exec .waitStopIdle s = .next t ∧ exec (pointInstr s.ctl) s = .next t) ∧
    (s.ctl ∈ addressPoints → ∃ t, exec .addressPhase s = .next t ∧ exec (pointInstr s.ctl) s = .next t) ∧
    (s.ctl ∈ sendPoints → ∃ t, exec .sendByte s = .next t ∧ exec (pointInstr s.ctl) s = .next t ∧
      exec .writeBytes s = .next t ∧ exec .writeWoPrepare s = .next t) ∧
    (s.ctl ∈ recvPoints → ∃ t, exec .recvByte s = .next t ∧ exec (pointInstr s.ctl) s = .next t ∧
      exec .readBytes s = .next t ∧ exec .readWoPrepare s = .next t) ∧
    (s.ctl = .armLast → ∃ t, exec .readWoPrepare s = .next t ∧ exec (pointInstr s.ctl) s = .next t) ∧
    (s.ctl = .genStop → ∃ t, exec .writeWoPrepare s = .next t ∧ exec (pointInstr s.ctl) s = .next t)

/-- R20 to R39: who writes each register and field; the frame of all control points together. -/
def Obligations.PointsLeaveEverythingElse : Prop :=
  ∀ (p : Point) (s t : State), exec (pointInstr p) s = .next t →
    t.cfg = s.cfg ∧ t.cmd = s.cmd ∧ t.addr = s.addr ∧ t.ops = s.ops ∧ t.call = s.call ∧ t.params = s.params ∧
    t.env = s.env ∧ t.cmdIn = s.cmdIn ∧ t.wdata = s.wdata ∧ t.txn.addr = s.txn.addr ∧
    (p ≠ .newApply → t.handle = s.handle) ∧
    (p ∉ pollPoints → t.snap = s.snap ∧ t.pendFlag = s.pendFlag) ∧
    (p ≠ .newReset → t.tick = s.tick ∧ t.regs.stopPending = s.regs.stopPending ∧ t.regs.sts2 = s.regs.sts2 ∧
      t.regs.rxData = s.regs.rxData) ∧
    (p ∉ clearPoints → p ≠ .newReset → t.regs.sts = s.regs.sts) ∧
    (p ∈ clearPoints → t.regs.sts = clearFlag s.pendFlag s.regs.sts) ∧
    (p ∉ [.addrWrite, .txWrite, .newReset] → t.regs.txData = s.regs.txData) ∧
    (p ∉ [.newApply, .newReset] → t.regs.cfg = s.regs.cfg) ∧
    (p ≠ .rxRead → t.rdata = s.rdata ∧ ∀ a, memRead t.mem a = memRead s.mem a) ∧
    (p ∉ dispatchPoints → t.opIdx = s.opIdx ∧ t.byteIdx = s.byteIdx ∧ t.dir = s.dir ∧ t.txn.prevDir = s.txn.prevDir) ∧
    (t.ctl ≠ .rest → t.result = s.result ∧ t.resOut = s.resOut) ∧
    (t.result ≠ some .ok → t.txn.done = s.txn.done)

/-- R140, R32, R41: every write of CTRL. -/
def Obligations.OnlySequencerPointsWriteControl : Prop :=
  ∀ (p : Point) (s t : State), p ≠ .newReset → exec (pointInstr p) s = .next t →
    t.regs.ctrl.startReq = (s.regs.ctrl.startReq || p == .sreqStart) ∧
    t.regs.ctrl.stopReq = (s.regs.ctrl.stopReq || p == .armLast || p == .genStop) ∧
    t.regs.ctrl.ackEn = (if p = .sreqAckEn then true else if p = .armLast then false else s.regs.ctrl.ackEn)

/-- R210, R240, R243: acceptance is silent. That operand words and result bytes execute as rows of their own is log entry
6. An operand word only joins the stream, or it completes the command that the stream then spells: a NEW needs four more
words after its mode word (R96), so a mode word never completes the NEW it belongs to. -/
def Obligations.CommandsTouchNoMemoryAndNoController : Prop :=
  ∀ (i : Instr) (s t : State), i.format ≠ .ctl → i.format ≠ .uop → i.format ≠ .w8 → exec i s = .next t →
    t.regs = s.regs ∧ (∀ a, memRead t.mem a = memRead s.mem a) ∧ t.rdata = s.rdata ∧ t.snap = s.snap ∧
    t.pendFlag = s.pendFlag ∧ t.params = s.params ∧ t.env = s.env ∧ t.tick = s.tick ∧
    (i.format = .h ∨ i.format = .r8 → t.wdata = s.wdata ∧ t.cmdIn = s.cmdIn) ∧
    (i.format = .h → (i ≠ .release → t.handle = s.handle) ∧ ((∀ m c al, i ≠ .new m c al) → t.cfg = s.cfg)) ∧
    (i.format = .r8 → t.handle = s.handle ∧ t.cfg = s.cfg ∧ t.cmd = s.cmd ∧ t.ops = s.ops) ∧
    (∀ w, i.format ≠ .h → encodeWords i = [w] →
      (decodeCommand (s.cmdIn ++ [w]) s.wdata = .incomplete → t = { s with cmdIn := s.cmdIn ++ [w] }) ∧
      (∀ c ws bs, decodeCommand (s.cmdIn ++ [w]) s.wdata = .done c ws bs →
        t.cmdIn = ws ∧ t.wdata = bs ∧ (c ≠ .release → t.handle = s.handle) ∧
        ((∀ m clk al, c ≠ .new m clk al) → t.cfg = s.cfg)))

/-- R23, R74, R210: the command is constant, and the block accepts nothing, while ctl is not REST. -/
def Obligations.CommandIsLatchedUntilItEnds : Prop :=
  ∀ s t : State, s.ctl ≠ .rest → step s = .next t →
    t.cfg = s.cfg ∧ t.cmd = s.cmd ∧ t.addr = s.addr ∧ t.ops = s.ops ∧ t.call = s.call ∧
    t.txn.addr = s.txn.addr ∧ t.cmdIn = s.cmdIn ∧ t.wdata = s.wdata ∧ t.params = s.params

/-- R21: `handle` is "Written only by NEW and RELEASE". -/
def Obligations.HandleIsBoundAndUnboundByTwoSteps : Prop :=
  ∀ s t : State, step s = .next t → t.handle ≠ s.handle →
    (s.ctl = .newApply ∧ t.handle = .bound) ∨
    (s.ctl = .rest ∧ t.handle = .unbound ∧ ∃ ws bs, decodeCommand s.cmdIn s.wdata = .done .release ws bs)

/-- R271, R251, R255, and R214 with R187 and R191: the points that hand control to dispatch, ADDR_ACKCLR and RX_READ among
them, deliver the Overrun of a final Read of length 0. -/
def Obligations.ErrorsOfEachControlPoint : Prop :=
  ∀ (p : Point) (s t : State) (e : Err), exec (pointInstr p) s = .next t → p ≠ .rest → t.ctl = .rest →
    t.result = some (.err e) →
    (∃ w f, p = clearPointOf w ∧ s.pendFlag = f ∧ raisedError w f = some e) ∨
    (e = .overrun ∧ p ∈ dispatchPoints ∧ s.ops.getLast? = some (.read 0))

/-- R127, R253: with the flag absent "`Timeout` is never produced", as a property that every step keeps; and every poll
shows the flag 0, whatever the environment answers and whatever the state. -/
def Obligations.NoTimeoutWithoutTheFlag : Prop :=
  (∀ s t : State, s.params.hasTimeoutFlag = false → NoTimeout s → step s = .next t →
    NoTimeout t ∧ t.params.hasTimeoutFlag = false) ∧
  (∀ (w : Wait) (s t : State), s.params.hasTimeoutFlag = false → exec (pointInstr (pollPointOf w)) s = .next t →
    t.snap.timeout = false ∧ (t.ctl = clearPointOf w → t.pendFlag ≠ .timeout))

/-- R44, R280: the invariants below hold at reset. -/
def Obligations.InvariantHoldsAtReset : Prop :=
  Inv State.reset ∧ HistoryOk State.reset.hist ∧ HistoryEnds State.reset ∧ StartsAfterIdle State.reset.hist ∧
  StartReady State.reset ∧ StopCount State.reset ∧ SegmentOk State.reset

/-- R21, R22, R25, R66, R124, R214, R255 as one inductive invariant. -/
def Obligations.EveryStepKeepsTheInvariant : Prop :=
  ∀ s t : State, Inv s → step s = .next t → Inv t

/-- R270: "Stuck: cannot happen to the block itself"; R66: no access outside a buffer. -/
def Obligations.SoundStatesNeverFault : Prop :=
  ∀ s : State, Inv s →
    (∀ f, step s ≠ .fault f) ∧
    (∀ r, step s = .refused r → s.ctl = .rest ∧
      ((∃ c, decodeCommand s.cmdIn s.wdata = .refused c ∧ r = refusalOf c) ∨
       (∃ i ws bs, decodeCommand s.cmdIn s.wdata = .done i ws bs ∧
        ((i.failing = some .opcKnown ∧ r = .opcKnown) ∨ (i.failing = none ∧ r = .handleFits)))))

/-- R124, R255, R258, R283; checks 1, 2 and 3 of 95_test_vectors.md section 6. -/
def Obligations.EveryStepKeepsTheHistorySound : Prop :=
  ∀ s t : State, Inv s → HistoryOk s.hist → HistoryEnds s → step s = .next t → HistoryOk t.hist ∧ HistoryEnds t

/-- R141 to R143; check 5 of 95_test_vectors.md section 6. -/
def Obligations.StartsFollowAnIdleBus : Prop :=
  ∀ s t : State, Inv s → StartsAfterIdle s.hist → StartReady s → step s = .next t →
    StartsAfterIdle t.hist ∧ StartReady t

/-- R147, R192, R75: the count of STOP requests. -/
def Obligations.OneStopPerSuccessfulCommand : Prop :=
  ∀ s t : State, Inv s → StopCount s → step s = .next t → StopCount t

/-- R211, R215, R216, R147, R75; checks 4, 6, 7 and 8 of 95_test_vectors.md section 6, for every environment. -/
def Obligations.EverySegmentFollowsItsSequence : Prop :=
  ∀ s t : State, Inv s → SegmentOk s → step s = .next t → SegmentOk t

/-- R106, R220, R221, R222: the expansions, for every input. -/
def Obligations.ConvenienceFormsAreTransactions : Prop :=
  ∀ (s : State) (a : Byte) (c : Instr) (ops : List Operation), a.toNat < 128 → s.handle = .bound → s.ctl = .rest →
    (∃ bs, c = .write a bs ∧ ops = [.write bs]) ∨ (∃ bs n, c = .writeRead a bs n ∧ ops = [.write bs, .read n]) ∨
      (∃ n, 0 < n ∧ c = .read a n ∧ ops = [.read n]) →
    ∃ t u, exec c s = .next t ∧ exec (.transaction a ops) s = .next u ∧ SameButCmd t u ∧
      t.hist = s.hist ++ [.cmd c] ∧ u.hist = s.hist ++ [.cmd (.transaction a ops)]

/-- R70: "The block itself reads the history never"; R223 (c): the round-trip equivalence, as a relation every step
keeps. -/
def Obligations.StepsIgnoreCommandKindAndHistory : Prop :=
  ∀ s t : State, SameButCmd s t → SameSteps s t (step s) (step t)

/-- R211, R216, R147, R219, R223 (a) and (b): the whole algorithm, counted, in every environment that answers each wait
at its first poll with no fault (the responder of D20 is one of them), laid down in the state or not; without the extra
status read (ADDR_ACK_CLEAR_READ false). -/
def Obligations.TransactionsCompleteUnderPromptAnswers : Prop :=
  ∀ (s : State) (a : Byte) (op : Operation) (rest ops : List Operation), ops = op :: rest → a.toNat < 128 →
    Fits (.transaction a ops) = true → Holds (.transaction a ops) s → s.params.addrAckClearRead = false →
    (∀ (k : Nat) (u : State), k ≤ promptPoints ops → Host.Core.run Sys2Proof.core k s = .next u → AnsweredAtOnce u) →
    ∃ t : State, Host.Core.run Sys2Proof.core (1 + promptPoints ops) s = .next t ∧ t.ctl = .rest ∧
      t.result = some (if endsInEmptyRead ops then .err .overrun else .ok) ∧
      nStart (segmentOf t.hist) = 1 + turnsAfter op.dir rest ∧
      nStop (segmentOf t.hist) = (if endsInEmptyRead ops then 0 else 1) ∧
      nArm (segmentOf t.hist) = (if endsInRead ops && !endsInEmptyRead ops then 1 else 0) ∧
      addressBytes (segmentOf t.hist) = (phasesOf ops).map (addrByte a) ∧
      sentBytes (segmentOf t.hist) = ops.flatMap Operation.wdata ∧
      (storedBytes (segmentOf t.hist)).length = bytesRead ops

/-- R163, R168, R270, R290 and the vector V24: the wait is unbounded, in every environment that shows no fault and never
MASTER = 1 with BUSY = 0. -/
def Obligations.BusyBusHangsForEver : Prop :=
  ∀ (k : Nat) (s : State), s.ctl = .startedPoll ∨ s.ctl = .startedCond →
    KeepsBusy s.params s.regs.sts s.regs.sts2 → (∀ m ∈ s.env, KeepsBusy s.params m.sts m.sts2) → k ≤ s.env.length →
    ∃ t : State, Host.Core.run Sys2Proof.core k s = .next t ∧ (t.ctl = .startedPoll ∨ t.ctl = .startedCond) ∧
      t.result = s.result ∧ t.resOut = s.resOut
end

