-- ==== Sys2Proof/Laws/State.lean ====
section
/-! SUPPORT. One lemma per field per update of the state, each true by rfl: no later proof unfolds a record update. -/

namespace Sys2Proof.Machine

variable (s : State)

@[simp] theorem goto_handle (p : Point) : (goto p s).handle = s.handle := rfl
@[simp] theorem goto_cfg (p : Point) : (goto p s).cfg = s.cfg := rfl
@[simp] theorem goto_cmd (p : Point) : (goto p s).cmd = s.cmd := rfl
@[simp] theorem goto_addr (p : Point) : (goto p s).addr = s.addr := rfl
@[simp] theorem goto_ops (p : Point) : (goto p s).ops = s.ops := rfl
@[simp] theorem goto_ctl (p : Point) : (goto p s).ctl = p := rfl
@[simp] theorem goto_txn (p : Point) : (goto p s).txn = s.txn := rfl
@[simp] theorem goto_opIdx (p : Point) : (goto p s).opIdx = s.opIdx := rfl
@[simp] theorem goto_byteIdx (p : Point) : (goto p s).byteIdx = s.byteIdx := rfl
@[simp] theorem goto_dir (p : Point) : (goto p s).dir = s.dir := rfl
@[simp] theorem goto_snap (p : Point) : (goto p s).snap = s.snap := rfl
@[simp] theorem goto_pendFlag (p : Point) : (goto p s).pendFlag = s.pendFlag := rfl
@[simp] theorem goto_result (p : Point) : (goto p s).result = s.result := rfl
@[simp] theorem goto_regs (p : Point) : (goto p s).regs = s.regs := rfl
@[simp] theorem goto_hist (p : Point) : (goto p s).hist = s.hist := rfl
@[simp] theorem goto_cmdIn (p : Point) : (goto p s).cmdIn = s.cmdIn := rfl
@[simp] theorem goto_wdata (p : Point) : (goto p s).wdata = s.wdata := rfl
@[simp] theorem goto_rdata (p : Point) : (goto p s).rdata = s.rdata := rfl
@[simp] theorem goto_resOut (p : Point) : (goto p s).resOut = s.resOut := rfl
@[simp] theorem goto_mem (p : Point) : (goto p s).mem = s.mem := rfl
@[simp] theorem goto_call (p : Point) : (goto p s).call = s.call := rfl
@[simp] theorem goto_params (p : Point) : (goto p s).params = s.params := rfl
@[simp] theorem goto_env (p : Point) : (goto p s).env = s.env := rfl
@[simp] theorem goto_tick (p : Point) : (goto p s).tick = s.tick := rfl

@[simp] theorem log_handle (e : Event) : (log e s).handle = s.handle := rfl
@[simp] theorem log_cfg (e : Event) : (log e s).cfg = s.cfg := rfl
@[simp] theorem log_cmd (e : Event) : (log e s).cmd = s.cmd := rfl
@[simp] theorem log_addr (e : Event) : (log e s).addr = s.addr := rfl
@[simp] theorem log_ops (e : Event) : (log e s).ops = s.ops := rfl
@[simp] theorem log_ctl (e : Event) : (log e s).ctl = s.ctl := rfl
@[simp] theorem log_txn (e : Event) : (log e s).txn = s.txn := rfl
@[simp] theorem log_opIdx (e : Event) : (log e s).opIdx = s.opIdx := rfl
@[simp] theorem log_byteIdx (e : Event) : (log e s).byteIdx = s.byteIdx := rfl
@[simp] theorem log_dir (e : Event) : (log e s).dir = s.dir := rfl
@[simp] theorem log_snap (e : Event) : (log e s).snap = s.snap := rfl
@[simp] theorem log_pendFlag (e : Event) : (log e s).pendFlag = s.pendFlag := rfl
@[simp] theorem log_result (e : Event) : (log e s).result = s.result := rfl
@[simp] theorem log_regs (e : Event) : (log e s).regs = s.regs := rfl
@[simp] theorem log_hist (e : Event) : (log e s).hist = s.hist ++ [e] := rfl
@[simp] theorem log_cmdIn (e : Event) : (log e s).cmdIn = s.cmdIn := rfl
@[simp] theorem log_wdata (e : Event) : (log e s).wdata = s.wdata := rfl
@[simp] theorem log_rdata (e : Event) : (log e s).rdata = s.rdata := rfl
@[simp] theorem log_resOut (e : Event) : (log e s).resOut = s.resOut := rfl
@[simp] theorem log_mem (e : Event) : (log e s).mem = s.mem := rfl
@[simp] theorem log_call (e : Event) : (log e s).call = s.call := rfl
@[simp] theorem log_params (e : Event) : (log e s).params = s.params := rfl
@[simp] theorem log_env (e : Event) : (log e s).env = s.env := rfl
@[simp] theorem log_tick (e : Event) : (log e s).tick = s.tick := rfl

@[simp] theorem modCtrl_handle (a : CtrlAssign) : (modCtrl a s).handle = s.handle := rfl
@[simp] theorem modCtrl_cfg (a : CtrlAssign) : (modCtrl a s).cfg = s.cfg := rfl
@[simp] theorem modCtrl_cmd (a : CtrlAssign) : (modCtrl a s).cmd = s.cmd := rfl
@[simp] theorem modCtrl_addr (a : CtrlAssign) : (modCtrl a s).addr = s.addr := rfl
@[simp] theorem modCtrl_ops (a : CtrlAssign) : (modCtrl a s).ops = s.ops := rfl
@[simp] theorem modCtrl_ctl (a : CtrlAssign) : (modCtrl a s).ctl = s.ctl := rfl
@[simp] theorem modCtrl_txn (a : CtrlAssign) : (modCtrl a s).txn = s.txn := rfl
@[simp] theorem modCtrl_opIdx (a : CtrlAssign) : (modCtrl a s).opIdx = s.opIdx := rfl
@[simp] theorem modCtrl_byteIdx (a : CtrlAssign) : (modCtrl a s).byteIdx = s.byteIdx := rfl
@[simp] theorem modCtrl_dir (a : CtrlAssign) : (modCtrl a s).dir = s.dir := rfl
@[simp] theorem modCtrl_snap (a : CtrlAssign) : (modCtrl a s).snap = s.snap := rfl
@[simp] theorem modCtrl_pendFlag (a : CtrlAssign) : (modCtrl a s).pendFlag = s.pendFlag := rfl
@[simp] theorem modCtrl_result (a : CtrlAssign) : (modCtrl a s).result = s.result := rfl
@[simp] theorem modCtrl_regs (a : CtrlAssign) : (modCtrl a s).regs = { s.regs with ctrl := assignCtrl s.regs.ctrl a } := rfl
@[simp] theorem modCtrl_hist (a : CtrlAssign) : (modCtrl a s).hist = s.hist ++ [.modCtrl a] := rfl
@[simp] theorem modCtrl_cmdIn (a : CtrlAssign) : (modCtrl a s).cmdIn = s.cmdIn := rfl
@[simp] theorem modCtrl_wdata (a : CtrlAssign) : (modCtrl a s).wdata = s.wdata := rfl
@[simp] theorem modCtrl_rdata (a : CtrlAssign) : (modCtrl a s).rdata = s.rdata := rfl
@[simp] theorem modCtrl_resOut (a : CtrlAssign) : (modCtrl a s).resOut = s.resOut := rfl
@[simp] theorem modCtrl_mem (a : CtrlAssign) : (modCtrl a s).mem = s.mem := rfl
@[simp] theorem modCtrl_call (a : CtrlAssign) : (modCtrl a s).call = s.call := rfl
@[simp] theorem modCtrl_params (a : CtrlAssign) : (modCtrl a s).params = s.params := rfl
@[simp] theorem modCtrl_env (a : CtrlAssign) : (modCtrl a s).env = s.env := rfl
@[simp] theorem modCtrl_tick (a : CtrlAssign) : (modCtrl a s).tick = s.tick := rfl

@[simp] theorem regClear_handle (f : FaultFlag) : (regClear f s).handle = s.handle := rfl
@[simp] theorem regClear_cfg (f : FaultFlag) : (regClear f s).cfg = s.cfg := rfl
@[simp] theorem regClear_cmd (f : FaultFlag) : (regClear f s).cmd = s.cmd := rfl
@[simp] theorem regClear_addr (f : FaultFlag) : (regClear f s).addr = s.addr := rfl
@[simp] theorem regClear_ops (f : FaultFlag) : (regClear f s).ops = s.ops := rfl
@[simp] theorem regClear_ctl (f : FaultFlag) : (regClear f s).ctl = s.ctl := rfl
@[simp] theorem regClear_txn (f : FaultFlag) : (regClear f s).txn = s.txn := rfl
@[simp] theorem regClear_opIdx (f : FaultFlag) : (regClear f s).opIdx = s.opIdx := rfl
@[simp] theorem regClear_byteIdx (f : FaultFlag) : (regClear f s).byteIdx = s.byteIdx := rfl
@[simp] theorem regClear_dir (f : FaultFlag) : (regClear f s).dir = s.dir := rfl
@[simp] theorem regClear_snap (f : FaultFlag) : (regClear f s).snap = s.snap := rfl
@[simp] theorem regClear_pendFlag (f : FaultFlag) : (regClear f s).pendFlag = s.pendFlag := rfl
@[simp] theorem regClear_result (f : FaultFlag) : (regClear f s).result = s.result := rfl
@[simp] theorem regClear_regs (f : FaultFlag) : (regClear f s).regs = { s.regs with sts := clearFlag f s.regs.sts } := rfl
@[simp] theorem regClear_hist (f : FaultFlag) : (regClear f s).hist = s.hist ++ [.clr f] := rfl
@[simp] theorem regClear_cmdIn (f : FaultFlag) : (regClear f s).cmdIn = s.cmdIn := rfl
@[simp] theorem regClear_wdata (f : FaultFlag) : (regClear f s).wdata = s.wdata := rfl
@[simp] theorem regClear_rdata (f : FaultFlag) : (regClear f s).rdata = s.rdata := rfl
@[simp] theorem regClear_resOut (f : FaultFlag) : (regClear f s).resOut = s.resOut := rfl
@[simp] theorem regClear_mem (f : FaultFlag) : (regClear f s).mem = s.mem := rfl
@[simp] theorem regClear_call (f : FaultFlag) : (regClear f s).call = s.call := rfl
@[simp] theorem regClear_params (f : FaultFlag) : (regClear f s).params = s.params := rfl
@[simp] theorem regClear_env (f : FaultFlag) : (regClear f s).env = s.env := rfl
@[simp] theorem regClear_tick (f : FaultFlag) : (regClear f s).tick = s.tick := rfl

@[simp] theorem writeData_handle (b : Byte) : (writeData b s).handle = s.handle := rfl
@[simp] theorem writeData_cfg (b : Byte) : (writeData b s).cfg = s.cfg := rfl
@[simp] theorem writeData_cmd (b : Byte) : (writeData b s).cmd = s.cmd := rfl
@[simp] theorem writeData_addr (b : Byte) : (writeData b s).addr = s.addr := rfl
@[simp] theorem writeData_ops (b : Byte) : (writeData b s).ops = s.ops := rfl
@[simp] theorem writeData_ctl (b : Byte) : (writeData b s).ctl = s.ctl := rfl
@[simp] theorem writeData_txn (b : Byte) : (writeData b s).txn = s.txn := rfl
@[simp] theorem writeData_opIdx (b : Byte) : (writeData b s).opIdx = s.opIdx := rfl
@[simp] theorem writeData_byteIdx (b : Byte) : (writeData b s).byteIdx = s.byteIdx := rfl
@[simp] theorem writeData_dir (b : Byte) : (writeData b s).dir = s.dir := rfl
@[simp] theorem writeData_snap (b : Byte) : (writeData b s).snap = s.snap := rfl
@[simp] theorem writeData_pendFlag (b : Byte) : (writeData b s).pendFlag = s.pendFlag := rfl
@[simp] theorem writeData_result (b : Byte) : (writeData b s).result = s.result := rfl
@[simp] theorem writeData_regs (b : Byte) : (writeData b s).regs = { s.regs with txData := b } := rfl
@[simp] theorem writeData_hist (b : Byte) : (writeData b s).hist = s.hist ++ [.wrData b] := rfl
@[simp] theorem writeData_cmdIn (b : Byte) : (writeData b s).cmdIn = s.cmdIn := rfl
@[simp] theorem writeData_wdata (b : Byte) : (writeData b s).wdata = s.wdata := rfl
@[simp] theorem writeData_rdata (b : Byte) : (writeData b s).rdata = s.rdata := rfl
@[simp] theorem writeData_resOut (b : Byte) : (writeData b s).resOut = s.resOut := rfl
@[simp] theorem writeData_mem (b : Byte) : (writeData b s).mem = s.mem := rfl
@[simp] theorem writeData_call (b : Byte) : (writeData b s).call = s.call := rfl
@[simp] theorem writeData_params (b : Byte) : (writeData b s).params = s.params := rfl
@[simp] theorem writeData_env (b : Byte) : (writeData b s).env = s.env := rfl
@[simp] theorem writeData_tick (b : Byte) : (writeData b s).tick = s.tick := rfl

@[simp] theorem writeCfg_handle (c : Timing) : (writeCfg c s).handle = s.handle := rfl
@[simp] theorem writeCfg_cfg (c : Timing) : (writeCfg c s).cfg = s.cfg := rfl
@[simp] theorem writeCfg_cmd (c : Timing) : (writeCfg c s).cmd = s.cmd := rfl
@[simp] theorem writeCfg_addr (c : Timing) : (writeCfg c s).addr = s.addr := rfl
@[simp] theorem writeCfg_ops (c : Timing) : (writeCfg c s).ops = s.ops := rfl
@[simp] theorem writeCfg_ctl (c : Timing) : (writeCfg c s).ctl = s.ctl := rfl
@[simp] theorem writeCfg_txn (c : Timing) : (writeCfg c s).txn = s.txn := rfl
@[simp] theorem writeCfg_opIdx (c : Timing) : (writeCfg c s).opIdx = s.opIdx := rfl
@[simp] theorem writeCfg_byteIdx (c : Timing) : (writeCfg c s).byteIdx = s.byteIdx := rfl
@[simp] theorem writeCfg_dir (c : Timing) : (writeCfg c s).dir = s.dir := rfl
@[simp] theorem writeCfg_snap (c : Timing) : (writeCfg c s).snap = s.snap := rfl
@[simp] theorem writeCfg_pendFlag (c : Timing) : (writeCfg c s).pendFlag = s.pendFlag := rfl
@[simp] theorem writeCfg_result (c : Timing) : (writeCfg c s).result = s.result := rfl
@[simp] theorem writeCfg_regs (c : Timing) : (writeCfg c s).regs = { s.regs with cfg := c } := rfl
@[simp] theorem writeCfg_hist (c : Timing) : (writeCfg c s).hist = s.hist ++ [.wrCfg c] := rfl
@[simp] theorem writeCfg_cmdIn (c : Timing) : (writeCfg c s).cmdIn = s.cmdIn := rfl
@[simp] theorem writeCfg_wdata (c : Timing) : (writeCfg c s).wdata = s.wdata := rfl
@[simp] theorem writeCfg_rdata (c : Timing) : (writeCfg c s).rdata = s.rdata := rfl
@[simp] theorem writeCfg_resOut (c : Timing) : (writeCfg c s).resOut = s.resOut := rfl
@[simp] theorem writeCfg_mem (c : Timing) : (writeCfg c s).mem = s.mem := rfl
@[simp] theorem writeCfg_call (c : Timing) : (writeCfg c s).call = s.call := rfl
@[simp] theorem writeCfg_params (c : Timing) : (writeCfg c s).params = s.params := rfl
@[simp] theorem writeCfg_env (c : Timing) : (writeCfg c s).env = s.env := rfl
@[simp] theorem writeCfg_tick (c : Timing) : (writeCfg c s).tick = s.tick := rfl

@[simp] theorem readStatus_handle : (readStatus s).handle = s.handle := rfl
@[simp] theorem readStatus_cfg : (readStatus s).cfg = s.cfg := rfl
@[simp] theorem readStatus_cmd : (readStatus s).cmd = s.cmd := rfl
@[simp] theorem readStatus_addr : (readStatus s).addr = s.addr := rfl
@[simp] theorem readStatus_ops : (readStatus s).ops = s.ops := rfl
@[simp] theorem readStatus_ctl : (readStatus s).ctl = s.ctl := rfl
@[simp] theorem readStatus_txn : (readStatus s).txn = s.txn := rfl
@[simp] theorem readStatus_opIdx : (readStatus s).opIdx = s.opIdx := rfl
@[simp] theorem readStatus_byteIdx : (readStatus s).byteIdx = s.byteIdx := rfl
@[simp] theorem readStatus_dir : (readStatus s).dir = s.dir := rfl
@[simp] theorem readStatus_snap : (readStatus s).snap = visibleStatus s.params s.regs.sts := rfl
@[simp] theorem readStatus_pendFlag : (readStatus s).pendFlag = s.pendFlag := rfl
@[simp] theorem readStatus_result : (readStatus s).result = s.result := rfl
@[simp] theorem readStatus_regs : (readStatus s).regs = s.regs := rfl
@[simp] theorem readStatus_hist : (readStatus s).hist = s.hist ++ [.rdSts (visibleStatus s.params s.regs.sts)] := rfl
@[simp] theorem readStatus_cmdIn : (readStatus s).cmdIn = s.cmdIn := rfl
@[simp] theorem readStatus_wdata : (readStatus s).wdata = s.wdata := rfl
@[simp] theorem readStatus_rdata : (readStatus s).rdata = s.rdata := rfl
@[simp] theorem readStatus_resOut : (readStatus s).resOut = s.resOut := rfl
@[simp] theorem readStatus_mem : (readStatus s).mem = s.mem := rfl
@[simp] theorem readStatus_call : (readStatus s).call = s.call := rfl
@[simp] theorem readStatus_params : (readStatus s).params = s.params := rfl
@[simp] theorem readStatus_env : (readStatus s).env = s.env := rfl
@[simp] theorem readStatus_tick : (readStatus s).tick = s.tick := rfl

@[simp] theorem readStatus2_handle : (readStatus2 s).handle = s.handle := rfl
@[simp] theorem readStatus2_cfg : (readStatus2 s).cfg = s.cfg := rfl
@[simp] theorem readStatus2_cmd : (readStatus2 s).cmd = s.cmd := rfl
@[simp] theorem readStatus2_addr : (readStatus2 s).addr = s.addr := rfl
@[simp] theorem readStatus2_ops : (readStatus2 s).ops = s.ops := rfl
@[simp] theorem readStatus2_ctl : (readStatus2 s).ctl = s.ctl := rfl
@[simp] theorem readStatus2_txn : (readStatus2 s).txn = s.txn := rfl
@[simp] theorem readStatus2_opIdx : (readStatus2 s).opIdx = s.opIdx := rfl
@[simp] theorem readStatus2_byteIdx : (readStatus2 s).byteIdx = s.byteIdx := rfl
@[simp] theorem readStatus2_dir : (readStatus2 s).dir = s.dir := rfl
@[simp] theorem readStatus2_snap : (readStatus2 s).snap = s.snap := rfl
@[simp] theorem readStatus2_pendFlag : (readStatus2 s).pendFlag = s.pendFlag := rfl
@[simp] theorem readStatus2_result : (readStatus2 s).result = s.result := rfl
@[simp] theorem readStatus2_regs : (readStatus2 s).regs = s.regs := rfl
@[simp] theorem readStatus2_hist : (readStatus2 s).hist = s.hist ++ [.rdSts2 s.regs.sts2] := rfl
@[simp] theorem readStatus2_cmdIn : (readStatus2 s).cmdIn = s.cmdIn := rfl
@[simp] theorem readStatus2_wdata : (readStatus2 s).wdata = s.wdata := rfl
@[simp] theorem readStatus2_rdata : (readStatus2 s).rdata = s.rdata := rfl
@[simp] theorem readStatus2_resOut : (readStatus2 s).resOut = s.resOut := rfl
@[simp] theorem readStatus2_mem : (readStatus2 s).mem = s.mem := rfl
@[simp] theorem readStatus2_call : (readStatus2 s).call = s.call := rfl
@[simp] theorem readStatus2_params : (readStatus2 s).params = s.params := rfl
@[simp] theorem readStatus2_env : (readStatus2 s).env = s.env := rfl
@[simp] theorem readStatus2_tick : (readStatus2 s).tick = s.tick := rfl

@[simp] theorem readStopPending_handle : (readStopPending s).handle = s.handle := rfl
@[simp] theorem readStopPending_cfg : (readStopPending s).cfg = s.cfg := rfl
@[simp] theorem readStopPending_cmd : (readStopPending s).cmd = s.cmd := rfl
@[simp] theorem readStopPending_addr : (readStopPending s).addr = s.addr := rfl
@[simp] theorem readStopPending_ops : (readStopPending s).ops = s.ops := rfl
@[simp] theorem readStopPending_ctl : (readStopPending s).ctl = s.ctl := rfl
@[simp] theorem readStopPending_txn : (readStopPending s).txn = s.txn := rfl
@[simp] theorem readStopPending_opIdx : (readStopPending s).opIdx = s.opIdx := rfl
@[simp] theorem readStopPending_byteIdx : (readStopPending s).byteIdx = s.byteIdx := rfl
@[simp] theorem readStopPending_dir : (readStopPending s).dir = s.dir := rfl
@[simp] theorem readStopPending_snap : (readStopPending s).snap = s.snap := rfl
@[simp] theorem readStopPending_pendFlag : (readStopPending s).pendFlag = s.pendFlag := rfl
@[simp] theorem readStopPending_result : (readStopPending s).result = s.result := rfl
@[simp] theorem readStopPending_regs : (readStopPending s).regs = s.regs := rfl
@[simp] theorem readStopPending_hist : (readStopPending s).hist = s.hist ++ [.rdStopPending s.regs.stopPending] := rfl
@[simp] theorem readStopPending_cmdIn : (readStopPending s).cmdIn = s.cmdIn := rfl
@[simp] theorem readStopPending_wdata : (readStopPending s).wdata = s.wdata := rfl
@[simp] theorem readStopPending_rdata : (readStopPending s).rdata = s.rdata := rfl
@[simp] theorem readStopPending_resOut : (readStopPending s).resOut = s.resOut := rfl
@[simp] theorem readStopPending_mem : (readStopPending s).mem = s.mem := rfl
@[simp] theorem readStopPending_call : (readStopPending s).call = s.call := rfl
@[simp] theorem readStopPending_params : (readStopPending s).params = s.params := rfl
@[simp] theorem readStopPending_env : (readStopPending s).env = s.env := rfl
@[simp] theorem readStopPending_tick : (readStopPending s).tick = s.tick := rfl

@[simp] theorem receiveByte_handle : (receiveByte s).handle = s.handle := rfl
@[simp] theorem receiveByte_cfg : (receiveByte s).cfg = s.cfg := rfl
@[simp] theorem receiveByte_cmd : (receiveByte s).cmd = s.cmd := rfl
@[simp] theorem receiveByte_addr : (receiveByte s).addr = s.addr := rfl
@[simp] theorem receiveByte_ops : (receiveByte s).ops = s.ops := rfl
@[simp] theorem receiveByte_ctl : (receiveByte s).ctl = s.ctl := rfl
@[simp] theorem receiveByte_txn : (receiveByte s).txn = s.txn := rfl
@[simp] theorem receiveByte_opIdx : (receiveByte s).opIdx = s.opIdx := rfl
@[simp] theorem receiveByte_byteIdx : (receiveByte s).byteIdx = s.byteIdx := rfl
@[simp] theorem receiveByte_dir : (receiveByte s).dir = s.dir := rfl
@[simp] theorem receiveByte_snap : (receiveByte s).snap = s.snap := rfl
@[simp] theorem receiveByte_pendFlag : (receiveByte s).pendFlag = s.pendFlag := rfl
@[simp] theorem receiveByte_result : (receiveByte s).result = s.result := rfl
@[simp] theorem receiveByte_regs : (receiveByte s).regs = s.regs := rfl
@[simp] theorem receiveByte_hist : (receiveByte s).hist = s.hist ++ [.rdData s.regs.rxData, .bufWr s.opIdx s.byteIdx s.regs.rxData] := rfl
@[simp] theorem receiveByte_cmdIn : (receiveByte s).cmdIn = s.cmdIn := rfl
@[simp] theorem receiveByte_wdata : (receiveByte s).wdata = s.wdata := rfl
@[simp] theorem receiveByte_rdata : (receiveByte s).rdata = s.rdata ++ [s.regs.rxData] := rfl
@[simp] theorem receiveByte_resOut : (receiveByte s).resOut = s.resOut := rfl
@[simp] theorem receiveByte_mem : (receiveByte s).mem = memWrite s.mem (bufAddr s.call s.opIdx s.byteIdx) s.regs.rxData := rfl
@[simp] theorem receiveByte_call : (receiveByte s).call = s.call := rfl
@[simp] theorem receiveByte_params : (receiveByte s).params = s.params := rfl
@[simp] theorem receiveByte_env : (receiveByte s).env = s.env := rfl
@[simp] theorem receiveByte_tick : (receiveByte s).tick = s.tick := rfl

@[simp] theorem transmitByte_handle (b : Byte) : (transmitByte b s).handle = s.handle := rfl
@[simp] theorem transmitByte_cfg (b : Byte) : (transmitByte b s).cfg = s.cfg := rfl
@[simp] theorem transmitByte_cmd (b : Byte) : (transmitByte b s).cmd = s.cmd := rfl
@[simp] theorem transmitByte_addr (b : Byte) : (transmitByte b s).addr = s.addr := rfl
@[simp] theorem transmitByte_ops (b : Byte) : (transmitByte b s).ops = s.ops := rfl
@[simp] theorem transmitByte_ctl (b : Byte) : (transmitByte b s).ctl = s.ctl := rfl
@[simp] theorem transmitByte_txn (b : Byte) : (transmitByte b s).txn = s.txn := rfl
@[simp] theorem transmitByte_opIdx (b : Byte) : (transmitByte b s).opIdx = s.opIdx := rfl
@[simp] theorem transmitByte_byteIdx (b : Byte) : (transmitByte b s).byteIdx = s.byteIdx := rfl
@[simp] theorem transmitByte_dir (b : Byte) : (transmitByte b s).dir = s.dir := rfl
@[simp] theorem transmitByte_snap (b : Byte) : (transmitByte b s).snap = s.snap := rfl
@[simp] theorem transmitByte_pendFlag (b : Byte) : (transmitByte b s).pendFlag = s.pendFlag := rfl
@[simp] theorem transmitByte_result (b : Byte) : (transmitByte b s).result = s.result := rfl
@[simp] theorem transmitByte_regs (b : Byte) : (transmitByte b s).regs = { s.regs with txData := b } := rfl
@[simp] theorem transmitByte_hist (b : Byte) : (transmitByte b s).hist = s.hist ++ [.bufRd s.opIdx s.byteIdx b] ++ [.wrData b] := rfl
@[simp] theorem transmitByte_cmdIn (b : Byte) : (transmitByte b s).cmdIn = s.cmdIn := rfl
@[simp] theorem transmitByte_wdata (b : Byte) : (transmitByte b s).wdata = s.wdata := rfl
@[simp] theorem transmitByte_rdata (b : Byte) : (transmitByte b s).rdata = s.rdata := rfl
@[simp] theorem transmitByte_resOut (b : Byte) : (transmitByte b s).resOut = s.resOut := rfl
@[simp] theorem transmitByte_mem (b : Byte) : (transmitByte b s).mem = s.mem := rfl
@[simp] theorem transmitByte_call (b : Byte) : (transmitByte b s).call = s.call := rfl
@[simp] theorem transmitByte_params (b : Byte) : (transmitByte b s).params = s.params := rfl
@[simp] theorem transmitByte_env (b : Byte) : (transmitByte b s).env = s.env := rfl
@[simp] theorem transmitByte_tick (b : Byte) : (transmitByte b s).tick = s.tick := rfl

@[simp] theorem clockEnable_handle : (clockEnable s).handle = s.handle := rfl
@[simp] theorem clockEnable_cfg : (clockEnable s).cfg = s.cfg := rfl
@[simp] theorem clockEnable_cmd : (clockEnable s).cmd = s.cmd := rfl
@[simp] theorem clockEnable_addr : (clockEnable s).addr = s.addr := rfl
@[simp] theorem clockEnable_ops : (clockEnable s).ops = s.ops := rfl
@[simp] theorem clockEnable_ctl : (clockEnable s).ctl = s.ctl := rfl
@[simp] theorem clockEnable_txn : (clockEnable s).txn = s.txn := rfl
@[simp] theorem clockEnable_opIdx : (clockEnable s).opIdx = s.opIdx := rfl
@[simp] theorem clockEnable_byteIdx : (clockEnable s).byteIdx = s.byteIdx := rfl
@[simp] theorem clockEnable_dir : (clockEnable s).dir = s.dir := rfl
@[simp] theorem clockEnable_snap : (clockEnable s).snap = s.snap := rfl
@[simp] theorem clockEnable_pendFlag : (clockEnable s).pendFlag = s.pendFlag := rfl
@[simp] theorem clockEnable_result : (clockEnable s).result = s.result := rfl
@[simp] theorem clockEnable_regs : (clockEnable s).regs = s.regs := rfl
@[simp] theorem clockEnable_hist : (clockEnable s).hist = s.hist ++ [.collabClockEnable] := rfl
@[simp] theorem clockEnable_cmdIn : (clockEnable s).cmdIn = s.cmdIn := rfl
@[simp] theorem clockEnable_wdata : (clockEnable s).wdata = s.wdata := rfl
@[simp] theorem clockEnable_rdata : (clockEnable s).rdata = s.rdata := rfl
@[simp] theorem clockEnable_resOut : (clockEnable s).resOut = s.resOut := rfl
@[simp] theorem clockEnable_mem : (clockEnable s).mem = s.mem := rfl
@[simp] theorem clockEnable_call : (clockEnable s).call = s.call := rfl
@[simp] theorem clockEnable_params : (clockEnable s).params = s.params := rfl
@[simp] theorem clockEnable_env : (clockEnable s).env = s.env := rfl
@[simp] theorem clockEnable_tick : (clockEnable s).tick = s.tick := rfl

@[simp] theorem clockReset_handle : (clockReset s).handle = s.handle := rfl
@[simp] theorem clockReset_cfg : (clockReset s).cfg = s.cfg := rfl
@[simp] theorem clockReset_cmd : (clockReset s).cmd = s.cmd := rfl
@[simp] theorem clockReset_addr : (clockReset s).addr = s.addr := rfl
@[simp] theorem clockReset_ops : (clockReset s).ops = s.ops := rfl
@[simp] theorem clockReset_ctl : (clockReset s).ctl = s.ctl := rfl
@[simp] theorem clockReset_txn : (clockReset s).txn = s.txn := rfl
@[simp] theorem clockReset_opIdx : (clockReset s).opIdx = s.opIdx := rfl
@[simp] theorem clockReset_byteIdx : (clockReset s).byteIdx = s.byteIdx := rfl
@[simp] theorem clockReset_dir : (clockReset s).dir = s.dir := rfl
@[simp] theorem clockReset_snap : (clockReset s).snap = s.snap := rfl
@[simp] theorem clockReset_pendFlag : (clockReset s).pendFlag = s.pendFlag := rfl
@[simp] theorem clockReset_result : (clockReset s).result = s.result := rfl
@[simp] theorem clockReset_regs : (clockReset s).regs = Config.controllerAfterReset s.tick := rfl
@[simp] theorem clockReset_hist : (clockReset s).hist = s.hist ++ [.collabClockReset] := rfl
@[simp] theorem clockReset_cmdIn : (clockReset s).cmdIn = s.cmdIn := rfl
@[simp] theorem clockReset_wdata : (clockReset s).wdata = s.wdata := rfl
@[simp] theorem clockReset_rdata : (clockReset s).rdata = s.rdata := rfl
@[simp] theorem clockReset_resOut : (clockReset s).resOut = s.resOut := rfl
@[simp] theorem clockReset_mem : (clockReset s).mem = s.mem := rfl
@[simp] theorem clockReset_call : (clockReset s).call = s.call := rfl
@[simp] theorem clockReset_params : (clockReset s).params = s.params := rfl
@[simp] theorem clockReset_env : (clockReset s).env = s.env := rfl
@[simp] theorem clockReset_tick : (clockReset s).tick = s.tick + 1 := rfl

@[simp] theorem deliver_handle (r : Result) : (deliver r s).handle = s.handle := rfl
@[simp] theorem deliver_cfg (r : Result) : (deliver r s).cfg = s.cfg := rfl
@[simp] theorem deliver_cmd (r : Result) : (deliver r s).cmd = s.cmd := rfl
@[simp] theorem deliver_addr (r : Result) : (deliver r s).addr = s.addr := rfl
@[simp] theorem deliver_ops (r : Result) : (deliver r s).ops = s.ops := rfl
@[simp] theorem deliver_ctl (r : Result) : (deliver r s).ctl = .rest := rfl
@[simp] theorem deliver_txn (r : Result) : (deliver r s).txn = s.txn := rfl
@[simp] theorem deliver_opIdx (r : Result) : (deliver r s).opIdx = s.opIdx := rfl
@[simp] theorem deliver_byteIdx (r : Result) : (deliver r s).byteIdx = s.byteIdx := rfl
@[simp] theorem deliver_dir (r : Result) : (deliver r s).dir = s.dir := rfl
@[simp] theorem deliver_snap (r : Result) : (deliver r s).snap = s.snap := rfl
@[simp] theorem deliver_pendFlag (r : Result) : (deliver r s).pendFlag = s.pendFlag := rfl
@[simp] theorem deliver_result (r : Result) : (deliver r s).result = some r := rfl
@[simp] theorem deliver_regs (r : Result) : (deliver r s).regs = s.regs := rfl
@[simp] theorem deliver_hist (r : Result) : (deliver r s).hist = s.hist ++ [.res r] := rfl
@[simp] theorem deliver_cmdIn (r : Result) : (deliver r s).cmdIn = s.cmdIn := rfl
@[simp] theorem deliver_wdata (r : Result) : (deliver r s).wdata = s.wdata := rfl
@[simp] theorem deliver_rdata (r : Result) : (deliver r s).rdata = s.rdata := rfl
@[simp] theorem deliver_resOut (r : Result) : (deliver r s).resOut = s.resOut ++ [resultByte r] := rfl
@[simp] theorem deliver_mem (r : Result) : (deliver r s).mem = s.mem := rfl
@[simp] theorem deliver_call (r : Result) : (deliver r s).call = s.call := rfl
@[simp] theorem deliver_params (r : Result) : (deliver r s).params = s.params := rfl
@[simp] theorem deliver_env (r : Result) : (deliver r s).env = s.env := rfl
@[simp] theorem deliver_tick (r : Result) : (deliver r s).tick = s.tick := rfl

@[simp] theorem finishOk_handle : (finishOk s).handle = s.handle := rfl
@[simp] theorem finishOk_cfg : (finishOk s).cfg = s.cfg := rfl
@[simp] theorem finishOk_cmd : (finishOk s).cmd = s.cmd := rfl
@[simp] theorem finishOk_addr : (finishOk s).addr = s.addr := rfl
@[simp] theorem finishOk_ops : (finishOk s).ops = s.ops := rfl
@[simp] theorem finishOk_ctl : (finishOk s).ctl = .rest := rfl
@[simp] theorem finishOk_txn : (finishOk s).txn = { s.txn with done := true } := rfl
@[simp] theorem finishOk_opIdx : (finishOk s).opIdx = s.opIdx := rfl
@[simp] theorem finishOk_byteIdx : (finishOk s).byteIdx = s.byteIdx := rfl
@[simp] theorem finishOk_dir : (finishOk s).dir = s.dir := rfl
@[simp] theorem finishOk_snap : (finishOk s).snap = s.snap := rfl
@[simp] theorem finishOk_pendFlag : (finishOk s).pendFlag = s.pendFlag := rfl
@[simp] theorem finishOk_result : (finishOk s).result = some .ok := rfl
@[simp] theorem finishOk_regs : (finishOk s).regs = s.regs := rfl
@[simp] theorem finishOk_hist : (finishOk s).hist = s.hist ++ [.res .ok] := rfl
@[simp] theorem finishOk_cmdIn : (finishOk s).cmdIn = s.cmdIn := rfl
@[simp] theorem finishOk_wdata : (finishOk s).wdata = s.wdata := rfl
@[simp] theorem finishOk_rdata : (finishOk s).rdata = s.rdata := rfl
@[simp] theorem finishOk_resOut : (finishOk s).resOut = s.resOut ++ [resultByte .ok] := rfl
@[simp] theorem finishOk_mem : (finishOk s).mem = s.mem := rfl
@[simp] theorem finishOk_call : (finishOk s).call = s.call := rfl
@[simp] theorem finishOk_params : (finishOk s).params = s.params := rfl
@[simp] theorem finishOk_env : (finishOk s).env = s.env := rfl
@[simp] theorem finishOk_tick : (finishOk s).tick = s.tick := rfl

@[simp] theorem raise_handle (e : Err) : (raise e s).handle = s.handle := rfl
@[simp] theorem raise_cfg (e : Err) : (raise e s).cfg = s.cfg := rfl
@[simp] theorem raise_cmd (e : Err) : (raise e s).cmd = s.cmd := rfl
@[simp] theorem raise_addr (e : Err) : (raise e s).addr = s.addr := rfl
@[simp] theorem raise_ops (e : Err) : (raise e s).ops = s.ops := rfl
@[simp] theorem raise_ctl (e : Err) : (raise e s).ctl = .rest := rfl
@[simp] theorem raise_txn (e : Err) : (raise e s).txn = s.txn := rfl
@[simp] theorem raise_opIdx (e : Err) : (raise e s).opIdx = s.opIdx := rfl
@[simp] theorem raise_byteIdx (e : Err) : (raise e s).byteIdx = s.byteIdx := rfl
@[simp] theorem raise_dir (e : Err) : (raise e s).dir = s.dir := rfl
@[simp] theorem raise_snap (e : Err) : (raise e s).snap = s.snap := rfl
@[simp] theorem raise_pendFlag (e : Err) : (raise e s).pendFlag = s.pendFlag := rfl
@[simp] theorem raise_result (e : Err) : (raise e s).result = some (.err e) := rfl
@[simp] theorem raise_regs (e : Err) : (raise e s).regs = s.regs := rfl
@[simp] theorem raise_hist (e : Err) : (raise e s).hist = s.hist ++ [.res (.err e)] := rfl
@[simp] theorem raise_cmdIn (e : Err) : (raise e s).cmdIn = s.cmdIn := rfl
@[simp] theorem raise_wdata (e : Err) : (raise e s).wdata = s.wdata := rfl
@[simp] theorem raise_rdata (e : Err) : (raise e s).rdata = s.rdata := rfl
@[simp] theorem raise_resOut (e : Err) : (raise e s).resOut = s.resOut ++ [resultByte (.err e)] := rfl
@[simp] theorem raise_mem (e : Err) : (raise e s).mem = s.mem := rfl
@[simp] theorem raise_call (e : Err) : (raise e s).call = s.call := rfl
@[simp] theorem raise_params (e : Err) : (raise e s).params = s.params := rfl
@[simp] theorem raise_env (e : Err) : (raise e s).env = s.env := rfl
@[simp] theorem raise_tick (e : Err) : (raise e s).tick = s.tick := rfl

@[simp] theorem accept_handle (c : Instr) (k : CmdKind) : (accept c k s).handle = s.handle := rfl
@[simp] theorem accept_cfg (c : Instr) (k : CmdKind) : (accept c k s).cfg = s.cfg := rfl
@[simp] theorem accept_cmd (c : Instr) (k : CmdKind) : (accept c k s).cmd = k := rfl
@[simp] theorem accept_addr (c : Instr) (k : CmdKind) : (accept c k s).addr = s.addr := rfl
@[simp] theorem accept_ops (c : Instr) (k : CmdKind) : (accept c k s).ops = s.ops := rfl
@[simp] theorem accept_ctl (c : Instr) (k : CmdKind) : (accept c k s).ctl = s.ctl := rfl
@[simp] theorem accept_txn (c : Instr) (k : CmdKind) : (accept c k s).txn = s.txn := rfl
@[simp] theorem accept_opIdx (c : Instr) (k : CmdKind) : (accept c k s).opIdx = s.opIdx := rfl
@[simp] theorem accept_byteIdx (c : Instr) (k : CmdKind) : (accept c k s).byteIdx = s.byteIdx := rfl
@[simp] theorem accept_dir (c : Instr) (k : CmdKind) : (accept c k s).dir = s.dir := rfl
@[simp] theorem accept_snap (c : Instr) (k : CmdKind) : (accept c k s).snap = s.snap := rfl
@[simp] theorem accept_pendFlag (c : Instr) (k : CmdKind) : (accept c k s).pendFlag = s.pendFlag := rfl
@[simp] theorem accept_result (c : Instr) (k : CmdKind) : (accept c k s).result = none := rfl
@[simp] theorem accept_regs (c : Instr) (k : CmdKind) : (accept c k s).regs = s.regs := rfl
@[simp] theorem accept_hist (c : Instr) (k : CmdKind) : (accept c k s).hist = s.hist ++ [.cmd c] := rfl
@[simp] theorem accept_cmdIn (c : Instr) (k : CmdKind) : (accept c k s).cmdIn = s.cmdIn := rfl
@[simp] theorem accept_wdata (c : Instr) (k : CmdKind) : (accept c k s).wdata = s.wdata := rfl
@[simp] theorem accept_rdata (c : Instr) (k : CmdKind) : (accept c k s).rdata = s.rdata := rfl
@[simp] theorem accept_resOut (c : Instr) (k : CmdKind) : (accept c k s).resOut = s.resOut := rfl
@[simp] theorem accept_mem (c : Instr) (k : CmdKind) : (accept c k s).mem = s.mem := rfl
@[simp] theorem accept_call (c : Instr) (k : CmdKind) : (accept c k s).call = s.call + 1 := rfl
@[simp] theorem accept_params (c : Instr) (k : CmdKind) : (accept c k s).params = s.params := rfl
@[simp] theorem accept_env (c : Instr) (k : CmdKind) : (accept c k s).env = s.env := rfl
@[simp] theorem accept_tick (c : Instr) (k : CmdKind) : (accept c k s).tick = s.tick := rfl

@[simp] theorem latchOps_handle (a : Byte) (ops : List Operation) : (latchOps a ops s).handle = s.handle := rfl
@[simp] theorem latchOps_cfg (a : Byte) (ops : List Operation) : (latchOps a ops s).cfg = s.cfg := rfl
@[simp] theorem latchOps_cmd (a : Byte) (ops : List Operation) : (latchOps a ops s).cmd = s.cmd := rfl
@[simp] theorem latchOps_addr (a : Byte) (ops : List Operation) : (latchOps a ops s).addr = a := rfl
@[simp] theorem latchOps_ops (a : Byte) (ops : List Operation) : (latchOps a ops s).ops = ops := rfl
@[simp] theorem latchOps_ctl (a : Byte) (ops : List Operation) : (latchOps a ops s).ctl = s.ctl := rfl
@[simp] theorem latchOps_txn (a : Byte) (ops : List Operation) : (latchOps a ops s).txn = s.txn := rfl
@[simp] theorem latchOps_opIdx (a : Byte) (ops : List Operation) : (latchOps a ops s).opIdx = s.opIdx := rfl
@[simp] theorem latchOps_byteIdx (a : Byte) (ops : List Operation) : (latchOps a ops s).byteIdx = s.byteIdx := rfl
@[simp] theorem latchOps_dir (a : Byte) (ops : List Operation) : (latchOps a ops s).dir = s.dir := rfl
@[simp] theorem latchOps_snap (a : Byte) (ops : List Operation) : (latchOps a ops s).snap = s.snap := rfl
@[simp] theorem latchOps_pendFlag (a : Byte) (ops : List Operation) : (latchOps a ops s).pendFlag = s.pendFlag := rfl
@[simp] theorem latchOps_result (a : Byte) (ops : List Operation) : (latchOps a ops s).result = s.result := rfl
@[simp] theorem latchOps_regs (a : Byte) (ops : List Operation) : (latchOps a ops s).regs = s.regs := rfl
@[simp] theorem latchOps_hist (a : Byte) (ops : List Operation) : (latchOps a ops s).hist = s.hist := rfl
@[simp] theorem latchOps_cmdIn (a : Byte) (ops : List Operation) : (latchOps a ops s).cmdIn = s.cmdIn := rfl
@[simp] theorem latchOps_wdata (a : Byte) (ops : List Operation) : (latchOps a ops s).wdata = s.wdata := rfl
@[simp] theorem latchOps_rdata (a : Byte) (ops : List Operation) : (latchOps a ops s).rdata = s.rdata := rfl
@[simp] theorem latchOps_resOut (a : Byte) (ops : List Operation) : (latchOps a ops s).resOut = s.resOut := rfl
@[simp] theorem latchOps_mem (a : Byte) (ops : List Operation) : (latchOps a ops s).mem = s.mem := rfl
@[simp] theorem latchOps_call (a : Byte) (ops : List Operation) : (latchOps a ops s).call = s.call := rfl
@[simp] theorem latchOps_params (a : Byte) (ops : List Operation) : (latchOps a ops s).params = s.params := rfl
@[simp] theorem latchOps_env (a : Byte) (ops : List Operation) : (latchOps a ops s).env = s.env := rfl
@[simp] theorem latchOps_tick (a : Byte) (ops : List Operation) : (latchOps a ops s).tick = s.tick := rfl

@[simp] theorem beginTxn_handle (a : Byte) (d : Dir) : (beginTxn a d s).handle = s.handle := rfl
@[simp] theorem beginTxn_cfg (a : Byte) (d : Dir) : (beginTxn a d s).cfg = s.cfg := rfl
@[simp] theorem beginTxn_cmd (a : Byte) (d : Dir) : (beginTxn a d s).cmd = s.cmd := rfl
@[simp] theorem beginTxn_addr (a : Byte) (d : Dir) : (beginTxn a d s).addr = s.addr := rfl
@[simp] theorem beginTxn_ops (a : Byte) (d : Dir) : (beginTxn a d s).ops = s.ops := rfl
@[simp] theorem beginTxn_ctl (a : Byte) (d : Dir) : (beginTxn a d s).ctl = .idlePoll := rfl
@[simp] theorem beginTxn_txn (a : Byte) (d : Dir) : (beginTxn a d s).txn = ⟨d, a, false⟩ := rfl
@[simp] theorem beginTxn_opIdx (a : Byte) (d : Dir) : (beginTxn a d s).opIdx = 0 := rfl
@[simp] theorem beginTxn_byteIdx (a : Byte) (d : Dir) : (beginTxn a d s).byteIdx = 0 := rfl
@[simp] theorem beginTxn_dir (a : Byte) (d : Dir) : (beginTxn a d s).dir = d := rfl
@[simp] theorem beginTxn_snap (a : Byte) (d : Dir) : (beginTxn a d s).snap = s.snap := rfl
@[simp] theorem beginTxn_pendFlag (a : Byte) (d : Dir) : (beginTxn a d s).pendFlag = s.pendFlag := rfl
@[simp] theorem beginTxn_result (a : Byte) (d : Dir) : (beginTxn a d s).result = s.result := rfl
@[simp] theorem beginTxn_regs (a : Byte) (d : Dir) : (beginTxn a d s).regs = s.regs := rfl
@[simp] theorem beginTxn_hist (a : Byte) (d : Dir) : (beginTxn a d s).hist = s.hist := rfl
@[simp] theorem beginTxn_cmdIn (a : Byte) (d : Dir) : (beginTxn a d s).cmdIn = s.cmdIn := rfl
@[simp] theorem beginTxn_wdata (a : Byte) (d : Dir) : (beginTxn a d s).wdata = s.wdata := rfl
@[simp] theorem beginTxn_rdata (a : Byte) (d : Dir) : (beginTxn a d s).rdata = s.rdata := rfl
@[simp] theorem beginTxn_resOut (a : Byte) (d : Dir) : (beginTxn a d s).resOut = s.resOut := rfl
@[simp] theorem beginTxn_mem (a : Byte) (d : Dir) : (beginTxn a d s).mem = s.mem := rfl
@[simp] theorem beginTxn_call (a : Byte) (d : Dir) : (beginTxn a d s).call = s.call := rfl
@[simp] theorem beginTxn_params (a : Byte) (d : Dir) : (beginTxn a d s).params = s.params := rfl
@[simp] theorem beginTxn_env (a : Byte) (d : Dir) : (beginTxn a d s).env = s.env := rfl
@[simp] theorem beginTxn_tick (a : Byte) (d : Dir) : (beginTxn a d s).tick = s.tick := rfl

@[simp] theorem advanceOp_handle (d : Dir) : (advanceOp d s).handle = s.handle := rfl
@[simp] theorem advanceOp_cfg (d : Dir) : (advanceOp d s).cfg = s.cfg := rfl
@[simp] theorem advanceOp_cmd (d : Dir) : (advanceOp d s).cmd = s.cmd := rfl
@[simp] theorem advanceOp_addr (d : Dir) : (advanceOp d s).addr = s.addr := rfl
@[simp] theorem advanceOp_ops (d : Dir) : (advanceOp d s).ops = s.ops := rfl
@[simp] theorem advanceOp_ctl (d : Dir) : (advanceOp d s).ctl = s.ctl := rfl
@[simp] theorem advanceOp_txn (d : Dir) : (advanceOp d s).txn = { s.txn with prevDir := d } := rfl
@[simp] theorem advanceOp_opIdx (d : Dir) : (advanceOp d s).opIdx = s.opIdx + 1 := rfl
@[simp] theorem advanceOp_byteIdx (d : Dir) : (advanceOp d s).byteIdx = 0 := rfl
@[simp] theorem advanceOp_dir (d : Dir) : (advanceOp d s).dir = s.dir := rfl
@[simp] theorem advanceOp_snap (d : Dir) : (advanceOp d s).snap = s.snap := rfl
@[simp] theorem advanceOp_pendFlag (d : Dir) : (advanceOp d s).pendFlag = s.pendFlag := rfl
@[simp] theorem advanceOp_result (d : Dir) : (advanceOp d s).result = s.result := rfl
@[simp] theorem advanceOp_regs (d : Dir) : (advanceOp d s).regs = s.regs := rfl
@[simp] theorem advanceOp_hist (d : Dir) : (advanceOp d s).hist = s.hist := rfl
@[simp] theorem advanceOp_cmdIn (d : Dir) : (advanceOp d s).cmdIn = s.cmdIn := rfl
@[simp] theorem advanceOp_wdata (d : Dir) : (advanceOp d s).wdata = s.wdata := rfl
@[simp] theorem advanceOp_rdata (d : Dir) : (advanceOp d s).rdata = s.rdata := rfl
@[simp] theorem advanceOp_resOut (d : Dir) : (advanceOp d s).resOut = s.resOut := rfl
@[simp] theorem advanceOp_mem (d : Dir) : (advanceOp d s).mem = s.mem := rfl
@[simp] theorem advanceOp_call (d : Dir) : (advanceOp d s).call = s.call := rfl
@[simp] theorem advanceOp_params (d : Dir) : (advanceOp d s).params = s.params := rfl
@[simp] theorem advanceOp_env (d : Dir) : (advanceOp d s).env = s.env := rfl
@[simp] theorem advanceOp_tick (d : Dir) : (advanceOp d s).tick = s.tick := rfl

@[simp] theorem turnBus_handle (d : Dir) : (turnBus d s).handle = s.handle := rfl
@[simp] theorem turnBus_cfg (d : Dir) : (turnBus d s).cfg = s.cfg := rfl
@[simp] theorem turnBus_cmd (d : Dir) : (turnBus d s).cmd = s.cmd := rfl
@[simp] theorem turnBus_addr (d : Dir) : (turnBus d s).addr = s.addr := rfl
@[simp] theorem turnBus_ops (d : Dir) : (turnBus d s).ops = s.ops := rfl
@[simp] theorem turnBus_ctl (d : Dir) : (turnBus d s).ctl = .idlePoll := rfl
@[simp] theorem turnBus_txn (d : Dir) : (turnBus d s).txn = s.txn := rfl
@[simp] theorem turnBus_opIdx (d : Dir) : (turnBus d s).opIdx = s.opIdx := rfl
@[simp] theorem turnBus_byteIdx (d : Dir) : (turnBus d s).byteIdx = s.byteIdx := rfl
@[simp] theorem turnBus_dir (d : Dir) : (turnBus d s).dir = d := rfl
@[simp] theorem turnBus_snap (d : Dir) : (turnBus d s).snap = s.snap := rfl
@[simp] theorem turnBus_pendFlag (d : Dir) : (turnBus d s).pendFlag = s.pendFlag := rfl
@[simp] theorem turnBus_result (d : Dir) : (turnBus d s).result = s.result := rfl
@[simp] theorem turnBus_regs (d : Dir) : (turnBus d s).regs = s.regs := rfl
@[simp] theorem turnBus_hist (d : Dir) : (turnBus d s).hist = s.hist := rfl
@[simp] theorem turnBus_cmdIn (d : Dir) : (turnBus d s).cmdIn = s.cmdIn := rfl
@[simp] theorem turnBus_wdata (d : Dir) : (turnBus d s).wdata = s.wdata := rfl
@[simp] theorem turnBus_rdata (d : Dir) : (turnBus d s).rdata = s.rdata := rfl
@[simp] theorem turnBus_resOut (d : Dir) : (turnBus d s).resOut = s.resOut := rfl
@[simp] theorem turnBus_mem (d : Dir) : (turnBus d s).mem = s.mem := rfl
@[simp] theorem turnBus_call (d : Dir) : (turnBus d s).call = s.call := rfl
@[simp] theorem turnBus_params (d : Dir) : (turnBus d s).params = s.params := rfl
@[simp] theorem turnBus_env (d : Dir) : (turnBus d s).env = s.env := rfl
@[simp] theorem turnBus_tick (d : Dir) : (turnBus d s).tick = s.tick := rfl

@[simp] theorem holdFault_handle (w : Wait) (f : FaultFlag) : (holdFault w f s).handle = s.handle := rfl
@[simp] theorem holdFault_cfg (w : Wait) (f : FaultFlag) : (holdFault w f s).cfg = s.cfg := rfl
@[simp] theorem holdFault_cmd (w : Wait) (f : FaultFlag) : (holdFault w f s).cmd = s.cmd := rfl
@[simp] theorem holdFault_addr (w : Wait) (f : FaultFlag) : (holdFault w f s).addr = s.addr := rfl
@[simp] theorem holdFault_ops (w : Wait) (f : FaultFlag) : (holdFault w f s).ops = s.ops := rfl
@[simp] theorem holdFault_ctl (w : Wait) (f : FaultFlag) : (holdFault w f s).ctl = clearPointOf w := rfl
@[simp] theorem holdFault_txn (w : Wait) (f : FaultFlag) : (holdFault w f s).txn = s.txn := rfl
@[simp] theorem holdFault_opIdx (w : Wait) (f : FaultFlag) : (holdFault w f s).opIdx = s.opIdx := rfl
@[simp] theorem holdFault_byteIdx (w : Wait) (f : FaultFlag) : (holdFault w f s).byteIdx = s.byteIdx := rfl
@[simp] theorem holdFault_dir (w : Wait) (f : FaultFlag) : (holdFault w f s).dir = s.dir := rfl
@[simp] theorem holdFault_snap (w : Wait) (f : FaultFlag) : (holdFault w f s).snap = s.snap := rfl
@[simp] theorem holdFault_pendFlag (w : Wait) (f : FaultFlag) : (holdFault w f s).pendFlag = f := rfl
@[simp] theorem holdFault_result (w : Wait) (f : FaultFlag) : (holdFault w f s).result = s.result := rfl
@[simp] theorem holdFault_regs (w : Wait) (f : FaultFlag) : (holdFault w f s).regs = s.regs := rfl
@[simp] theorem holdFault_hist (w : Wait) (f : FaultFlag) : (holdFault w f s).hist = s.hist := rfl
@[simp] theorem holdFault_cmdIn (w : Wait) (f : FaultFlag) : (holdFault w f s).cmdIn = s.cmdIn := rfl
@[simp] theorem holdFault_wdata (w : Wait) (f : FaultFlag) : (holdFault w f s).wdata = s.wdata := rfl
@[simp] theorem holdFault_rdata (w : Wait) (f : FaultFlag) : (holdFault w f s).rdata = s.rdata := rfl
@[simp] theorem holdFault_resOut (w : Wait) (f : FaultFlag) : (holdFault w f s).resOut = s.resOut := rfl
@[simp] theorem holdFault_mem (w : Wait) (f : FaultFlag) : (holdFault w f s).mem = s.mem := rfl
@[simp] theorem holdFault_call (w : Wait) (f : FaultFlag) : (holdFault w f s).call = s.call := rfl
@[simp] theorem holdFault_params (w : Wait) (f : FaultFlag) : (holdFault w f s).params = s.params := rfl
@[simp] theorem holdFault_env (w : Wait) (f : FaultFlag) : (holdFault w f s).env = s.env := rfl
@[simp] theorem holdFault_tick (w : Wait) (f : FaultFlag) : (holdFault w f s).tick = s.tick := rfl

@[simp] theorem envStep_handle : (envStep s).handle = s.handle := rfl
@[simp] theorem envStep_cfg : (envStep s).cfg = s.cfg := rfl
@[simp] theorem envStep_cmd : (envStep s).cmd = s.cmd := rfl
@[simp] theorem envStep_addr : (envStep s).addr = s.addr := rfl
@[simp] theorem envStep_ops : (envStep s).ops = s.ops := rfl
@[simp] theorem envStep_ctl : (envStep s).ctl = s.ctl := rfl
@[simp] theorem envStep_txn : (envStep s).txn = s.txn := rfl
@[simp] theorem envStep_opIdx : (envStep s).opIdx = s.opIdx := rfl
@[simp] theorem envStep_byteIdx : (envStep s).byteIdx = s.byteIdx := rfl
@[simp] theorem envStep_dir : (envStep s).dir = s.dir := rfl
@[simp] theorem envStep_snap : (envStep s).snap = s.snap := rfl
@[simp] theorem envStep_pendFlag : (envStep s).pendFlag = s.pendFlag := rfl
@[simp] theorem envStep_result : (envStep s).result = s.result := rfl
@[simp] theorem envStep_regs : (envStep s).regs = moveRegs (hostOwns s) (nextMove s) s.regs := rfl
@[simp] theorem envStep_hist : (envStep s).hist = s.hist := rfl
@[simp] theorem envStep_cmdIn : (envStep s).cmdIn = s.cmdIn := rfl
@[simp] theorem envStep_wdata : (envStep s).wdata = s.wdata := rfl
@[simp] theorem envStep_rdata : (envStep s).rdata = s.rdata := rfl
@[simp] theorem envStep_resOut : (envStep s).resOut = s.resOut := rfl
@[simp] theorem envStep_mem : (envStep s).mem = s.mem := rfl
@[simp] theorem envStep_call : (envStep s).call = s.call := rfl
@[simp] theorem envStep_params : (envStep s).params = s.params := rfl
@[simp] theorem envStep_env : (envStep s).env = s.env.tail := rfl
@[simp] theorem envStep_tick : (envStep s).tick = s.tick + 1 := rfl

end Sys2Proof.Machine
end

