-- ==== Sys2Proof/Laws/Dispatch.lean ====
section
/-! SUPPORT. Everything that `dispatch` (R214) with `next_op` (R215) can do, said once: it passes over finished
operations of one direction, and then takes one of seven exits. -/

namespace Sys2Proof.Machine

theorem finished_of_currentOp {s : State} {op : Operation} (h : currentOp s = some op) (d : Dir) :
    finished d s = (op.dir == d && decide (op.length ≤ s.byteIdx)) := by
  simp [finished, h]

theorem lastByteNext_of_currentOp {s : State} {op : Operation} (h : currentOp s = some op) :
    lastByteNext s = (op.dir == .read && s.byteIdx + 1 == op.length) := by
  cases op <;> simp [lastByteNext, h, Operation.dir, Operation.length]

/-- `u` is `s` after `next_op` has passed over finished operations without turning the bus. -/
inductive Advanced : State → State → Prop
  | refl (s : State) : Advanced s s
  | step {s u : State} {op op' : Operation} (here : currentOp s = some op) (past : op.length ≤ s.byteIdx)
      (next : s.ops[s.opIdx + 1]? = some op') (same : op'.dir = op.dir) (more : Advanced (advanceOp op.dir s) u) :
      Advanced s u

/-- The exits of `dispatch` at the operation it stops at. -/
inductive Exit (u : State) : Operation → State → Prop
  | send {bs} (more : u.byteIdx < bs.length) : Exit u (.write bs) (goto .txePoll u)
  | stop {bs} (past : bs.length ≤ u.byteIdx) (last : isFinal u = true) : Exit u (.write bs) (goto .genStop u)
  | empty (last : isFinal u = true) : Exit u (.read 0) (raise .overrun u)
  | arm {n} (one : u.byteIdx + 1 = n) (last : isFinal u = true) : Exit u (.read n) (goto .armLast u)
  | receive {n} (more : u.byteIdx < n) (plain : ¬(isFinal u = true ∧ u.byteIdx + 1 = n)) :
      Exit u (.read n) (goto .rxPoll u)
  | finish {n} (pos : 0 < n) (past : n ≤ u.byteIdx) (last : isFinal u = true) : Exit u (.read n) (finishOk u)
  | turn {op op'} (past : op.length ≤ u.byteIdx) (next : u.ops[u.opIdx + 1]? = some op') (other : op'.dir ≠ op.dir) :
      Exit u op (turnBus op'.dir (advanceOp op.dir u))

theorem drop_of_currentOp {s : State} {op : Operation} (h : currentOp s = some op) :
    s.ops.drop s.opIdx = op :: s.ops.drop (s.opIdx + 1) := by
  unfold currentOp at h
  obtain ⟨hlt, rfl⟩ := List.getElem?_eq_some_iff.1 h
  exact List.drop_eq_getElem_cons hlt

theorem dispatch_of_currentOp {s : State} {op : Operation} (h : currentOp s = some op) :
    dispatch s = dispatchOn (op :: s.ops.drop (s.opIdx + 1)) s := by
  rw [dispatch, drop_of_currentOp h]

theorem isFinal_iff_drop {s : State} {op : Operation} (h : currentOp s = some op) :
    isFinal s = true ↔ s.ops.drop (s.opIdx + 1) = [] := by
  unfold currentOp at h
  obtain ⟨hlt, -⟩ := List.getElem?_eq_some_iff.1 h
  simp only [isFinal, beq_iff_eq, List.drop_eq_nil_iff]
  omega

theorem dispatchOn_spec (ops : List Operation) :
    ∀ s : State, s.ops.drop s.opIdx = ops → ops ≠ [] →
      ∃ u op t, Advanced s u ∧ currentOp u = some op ∧ Exit u op t ∧ dispatchOn ops s = .next t := by
  induction ops with
  | nil => intro s _ h; exact absurd rfl h
  | cons op later ih =>
    intro s hs _
    have hop : currentOp s = some op := by
      have := congrArg (fun l => l[0]?) hs
      simpa [currentOp] using this
    have hlater : s.ops.drop (s.opIdx + 1) = later := by
      have := drop_of_currentOp hop
      rw [hs] at this
      exact (List.cons.inj this).2.symm
    have hfin := isFinal_iff_drop hop
    rw [hlater] at hfin
    match hm : later with
    | [] =>
      have last : isFinal s = true := hfin.2 rfl
      cases op with
      | write bs =>
        by_cases hb : s.byteIdx < bs.length
        · exact ⟨s, _, _, .refl s, hop, .send hb, by simp [dispatchOn, hb]⟩
        · exact ⟨s, _, _, .refl s, hop, .stop (by omega) last, by simp [dispatchOn, hb]⟩
      | read n =>
        by_cases h0 : n = 0
        · subst h0; exact ⟨s, _, _, .refl s, hop, .empty last, by simp [dispatchOn]⟩
        · by_cases hb : s.byteIdx < n
          · by_cases h1 : s.byteIdx + 1 = n
            · exact ⟨s, _, _, .refl s, hop, .arm h1 last, by simp [dispatchOn, h0, hb, h1]⟩
            · exact ⟨s, _, _, .refl s, hop, .receive hb (by simp [h1]), by simp [dispatchOn, h0, hb, h1]⟩
          · exact ⟨s, _, _, .refl s, hop, .finish (by omega) (by omega) last, by simp [dispatchOn, h0, hb]⟩
    | op' :: rest =>
      have notLast : isFinal s = false := by
        cases h : isFinal s
        · rfl
        · exact absurd (hfin.1 h) (by simp)
      have hnext : s.ops[s.opIdx + 1]? = some op' := by
        have := congrArg (fun l => l[0]?) hlater
        simpa using this
      by_cases hb : s.byteIdx < op.length
      · cases op with
        | write bs => exact ⟨s, _, _, .refl s, hop, .send hb, by simp_all [dispatchOn, Operation.length]⟩
        | read n =>
          exact ⟨s, _, _, .refl s, hop, .receive hb (by simp [notLast]), by simp_all [dispatchOn, Operation.length]⟩
      · by_cases hd : op'.dir = op.dir
        · obtain ⟨u, o, t, ha, hc, he, ht⟩ := ih (advanceOp op.dir s) (by simpa using hlater) (by simp)
          refine ⟨u, o, t, .step hop (by omega) hnext hd ha, hc, he, ?_⟩
          rw [← ht]
          cases op <;> simp_all [dispatchOn]
        · refine ⟨s, _, _, .refl s, hop, .turn (by omega) hnext hd, ?_⟩
          cases op <;> simp_all [dispatchOn]

/-- Where the current operation exists, `dispatch` answers a next state, and this is all it can be. -/
theorem dispatch_spec {s : State} {op : Operation} (h : currentOp s = some op) :
    ∃ u op' t, Advanced s u ∧ currentOp u = some op' ∧ Exit u op' t ∧ dispatch s = .next t :=
  dispatchOn_spec _ s rfl (by rw [drop_of_currentOp h]; simp)

/-- Where it does not exist, `dispatch` stops. -/
theorem dispatch_none {s : State} (h : currentOp s = none) : dispatch s = .fault .noOperation := by
  have : s.ops.drop s.opIdx = [] := List.drop_eq_nil_iff.2 (List.getElem?_eq_none_iff.1 h)
  simp [dispatch, this, dispatchOn]

theorem dispatch_next {s t : State} (h : dispatch s = .next t) :
    ∃ u op, Advanced s u ∧ currentOp u = some op ∧ Exit u op t := by
  cases hc : currentOp s with
  | none => rw [dispatch_none hc] at h; cases h
  | some op =>
    obtain ⟨u, o, t', ha, ho, he, ht⟩ := dispatch_spec hc
    rw [h] at ht
    obtain rfl : t = t' := by injection ht
    exact ⟨u, o, ha, ho, he⟩

/-- What passing over operations leaves unchanged: everything but `txn.prev_dir`, `op_idx` and `byte_idx`. -/
theorem Advanced.eq {s u : State} (h : Advanced s u) :
    u = { s with txn := { s.txn with prevDir := u.txn.prevDir }, opIdx := u.opIdx, byteIdx := u.byteIdx } := by
  induction h with
  | refl s => rfl
  | step _ _ _ _ _ ih => rw [ih]; rfl

/-- Passing over operations keeps the direction of the current operation. -/
theorem Advanced.dir {s u : State} (h : Advanced s u) :
    ∀ op op', currentOp s = some op → currentOp u = some op' → op'.dir = op.dir := by
  induction h with
  | refl s => intro op op' h h'; rw [h] at h'; cases h'; rfl
  | step here past next same more ih =>
    intro o o' ho ho'
    rw [here] at ho
    cases ho
    rw [ih _ o' (by simpa [currentOp] using next) ho', same]

/-- Passing over operations keeps `byte_idx` within the current operation. -/
theorem Advanced.byteIdx_le {s u : State} (h : Advanced s u) :
    ∀ op op', currentOp s = some op → s.byteIdx ≤ op.length → currentOp u = some op' → u.byteIdx ≤ op'.length := by
  induction h with
  | refl s => intro op op' h hb h'; rw [h] at h'; cases h'; exact hb
  | step here past next same more ih =>
    intro o o' ho hb ho'
    exact ih _ o' (by simpa [currentOp] using next) (by simp) ho'

end Sys2Proof.Machine
end

