-- ==== Sys2Proof/Laws/Step.lean ====
section
/-! SUPPORT. The cases of a step: what is fetched, and that a control point's meaning is its action of R24. -/

namespace Sys2Proof.Machine

/-- The instruction that stands at a control point runs that point. -/
theorem exec_pointInstr (p : Point) (s : State) : exec (pointInstr p) s = runPoint p s := by
  cases p <;> rfl

theorem step_at_point {s : State} (h : s.ctl ≠ .rest) : step s = settle (runPoint s.ctl s) := by
  simp [step, fetch, h, exec_pointInstr]

theorem step_at_rest {s : State} (h : s.ctl = .rest) :
    step s = match decodeCommand s.cmdIn s.wdata with
      | .done i ws bs => settle (exec i { s with cmdIn := ws, wdata := bs })
      | .incomplete => settle (.next s)
      | .refused c => .refused (refusalOf c) := by
  simp only [step, fetch, h, if_pos]
  cases decodeCommand s.cmdIn s.wdata <;> rfl

theorem settle_next {a : Ans} {t : State} (h : settle a = .next t) : ∃ u, a = .next u ∧ t = envStep u := by
  cases a with
  | next u => exact ⟨u, rfl, by injection h with h; exact h.symm⟩
  | fault f => cases h
  | refused r => cases h

theorem settle_fault {a : Ans} {f : Fault} (h : settle a = .fault f) : a = .fault f := by
  cases a with
  | next u => cases h
  | fault g => simpa [settle] using h
  | refused r => cases h

theorem settle_refused {a : Ans} {r : Refusal} (h : settle a = .refused r) : a = .refused r := by
  cases a with
  | next u => cases h
  | fault g => cases h
  | refused q => simpa [settle] using h

/-- The address check as a bound: `addr[7] = 0` is `addr < 128` (R97). -/
theorem addrCheck_none_iff (a : Byte) : addrCheck a = none ↔ a.toNat < 128 := by
  have h : a.getLsbD 7 = decide (128 ≤ a.toNat) := by
    rw [← BitVec.msb_eq_getLsbD_last a, BitVec.msb_eq_decide]
  simp only [addrCheck, h]
  split <;> simp_all

theorem addrCheck_some {a : Byte} (h : 128 ≤ a.toNat) : addrCheck a = some .addr7 := by
  have := addrCheck_none_iff a
  unfold addrCheck at this ⊢
  split
  · rfl
  · simp_all; omega

end Sys2Proof.Machine
end

