-- ==== Sys2Proof/Laws/Points.lean ====
section
/-! SUPPORT. What `dispatch` and the two points of a wait leave unchanged, and the cases of a wait. -/

namespace Sys2Proof.Machine

/-- The tables of R250 and R271 are the monitor's error, re-tagged by the wait (R126, R256). -/
theorem raisedError_eq (w : Wait) (f : FaultFlag) : raisedError w f = (errOf f).map (retag (tagOf w)) := by
  cases w <;> cases f <;> rfl

/-- The frame of one exit of `dispatch`. -/
theorem Exit.frame {u t : State} {op : Operation} (h : Exit u op t) :
    t = { u with
      txn := t.txn, opIdx := t.opIdx, byteIdx := t.byteIdx, dir := t.dir, ctl := t.ctl
      result := t.result, hist := t.hist, resOut := t.resOut } ∧
    t.txn.addr = u.txn.addr ∧
    (t.ctl ≠ .rest → t.result = u.result ∧ t.hist = u.hist ∧ t.resOut = u.resOut) ∧
    (t.result ≠ some .ok → t.txn.done = u.txn.done) := by
  cases h <;> simp [goto, finishOk, raise, deliver, turnBus, advanceOp]

/-- The frame of `dispatch`. -/
theorem dispatch_frame {s t : State} (h : dispatch s = .next t) :
    t = { s with
      txn := t.txn, opIdx := t.opIdx, byteIdx := t.byteIdx, dir := t.dir, ctl := t.ctl
      result := t.result, hist := t.hist, resOut := t.resOut } ∧
    t.txn.addr = s.txn.addr ∧
    (t.ctl ≠ .rest → t.result = s.result ∧ t.hist = s.hist ∧ t.resOut = s.resOut) ∧
    (t.result ≠ some .ok → t.txn.done = s.txn.done) := by
  obtain ⟨u, op, ha, -, he⟩ := dispatch_next h
  have hu := ha.eq
  obtain ⟨h1, h2, h3, h4⟩ := he.frame
  refine ⟨?_, ?_, ?_, ?_⟩
  · rw [h1, hu]
  · rw [h2, hu]
  · rw [hu] at h3; exact h3
  · rw [hu] at h4; exact h4

/-- The condition step of a wait: control goes to one of the wait's points, or to `dispatch` at `Ready` or after a byte
sent. -/
theorem waitTest_cases {w : Wait} {s t : State} (h : waitTest w s = .next t) :
    (∃ p, t = goto p s ∧ p ≠ .rest ∧ ∀ v, p ≠ clearPointOf v) ∨
    (w = .addr ∧ s.snap.addrAck = true ∧ s.params.addrAckClearRead = false ∧ dispatch s = .next t) ∨
    (w = .txc ∧ s.snap.xferDone = true ∧ byteDone s = .next t) := by
  cases w <;> simp only [waitTest] at h
  case idle => cases h; exact .inl ⟨_, rfl, by decide, by intro v; cases v <;> decide⟩
  case started => cases h; exact .inl ⟨_, rfl, by decide, by intro v; cases v <;> decide⟩
  case sreq =>
    cases h; refine .inl ⟨_, rfl, ?_⟩
    split <;> exact ⟨by decide, by intro v; cases v <;> decide⟩
  case addr =>
    split at h
    · next h1 =>
      split at h
      · cases h; exact .inl ⟨_, rfl, by decide, by intro v; cases v <;> decide⟩
      · next h2 => exact .inr (.inl ⟨rfl, h1, by simpa using h2, h⟩)
    · cases h; exact .inl ⟨_, rfl, by decide, by intro v; cases v <;> decide⟩
  case txe =>
    cases h; refine .inl ⟨_, rfl, ?_⟩
    split <;> exact ⟨by decide, by intro v; cases v <;> decide⟩
  case txc =>
    split at h
    · next h1 => exact .inr (.inr ⟨rfl, h1, h⟩)
    · cases h; exact .inl ⟨_, rfl, by decide, by intro v; cases v <;> decide⟩
  case rx =>
    cases h; refine .inl ⟨_, rfl, ?_⟩
    split <;> exact ⟨by decide, by intro v; cases v <;> decide⟩

/-- The point W_POLL of a wait: the condition step, or a fault held for the point W_CLEAR. -/
theorem pollPoint_cases {w : Wait} {s t : State} (h : pollPoint w s = .next t) :
    (firstFault (visibleStatus s.params s.regs.sts) = none ∧ waitTest w (readStatus s) = .next t) ∨
    (∃ f, firstFault (visibleStatus s.params s.regs.sts) = some f ∧ t = holdFault w f (readStatus s)) := by
  unfold pollPoint at h
  split at h
  · next hf => exact .inl ⟨hf, h⟩
  · next f hf => cases h; exact .inr ⟨f, hf, rfl⟩

/-- The point W_CLEAR of a wait: the abort, or the condition step after the ignored bus-error flag. -/
theorem clearPoint_cases {w : Wait} {s t : State} (h : clearPoint w s = .next t) :
    (s.pendFlag = .buserr ∧ waitTest w (regClear .buserr s) = .next t) ∨
    (∃ e, raisedError w s.pendFlag = some e ∧ t = raise e (regClear s.pendFlag s)) := by
  rw [raisedError_eq]
  unfold clearPoint at h
  cases hp : s.pendFlag <;> rw [hp] at h <;> simp only [errOf] at h
  case buserr => exact .inl ⟨rfl, h⟩
  all_goals exact .inr ⟨_, rfl, by cases h; rfl⟩

/-! ## The cases of one step at a control point of a bus command -/

/-- The points that the condition step of a wait can name itself; the other exits are those of `dispatch`. -/
def testTargets : Wait → List Point
  | .idle => [.idleCond]
  | .sreq => [.startedPoll, .sreqPoll]
  | .started => [.startedCond]
  | .addr => [.addrAckclr, .addrPoll]
  | .txe => [.txWrite, .txePoll]
  | .txc => [.txcPoll]
  | .rx => [.rxRead, .rxPoll]

/-- The one clean snapshot of a poll: no fault flag is set. -/
def Clean (s : State) : Prop := firstFault (visibleStatus s.params s.regs.sts) = none

/-- Every step at a control point of a bus command, with its access and what follows it silently. -/
inductive BusCase (s : State) : State → Prop
  | test {w p} (here : s.ctl = pollPointOf w) (clean : Clean s) (target : p ∈ testTargets w)
      (ack : p = .addrAckclr → s.params.addrAckClearRead = true) : BusCase s (goto p (readStatus s))
  | hold {w f} (here : s.ctl = pollPointOf w) (seen : firstFault (visibleStatus s.params s.regs.sts) = some f) :
      BusCase s (holdFault w f (readStatus s))
  | ignore {w p} (here : s.ctl = clearPointOf w) (flag : s.pendFlag = .buserr) (target : p ∈ testTargets w)
      (ack : p = .addrAckclr → s.params.addrAckClearRead = true) : BusCase s (goto p (regClear .buserr s))
  | abort {w e} (here : s.ctl = clearPointOf w) (err : raisedError w s.pendFlag = some e) :
      BusCase s (raise e (regClear s.pendFlag s))
  | readyPoll {t} (here : s.ctl = .addrPoll) (clean : Clean s) (go : dispatch (readStatus s) = .next t) : BusCase s t
  | readyClear {t} (here : s.ctl = .addrClear) (flag : s.pendFlag = .buserr)
      (go : dispatch (regClear .buserr s) = .next t) : BusCase s t
  | readyAck {t} (here : s.ctl = .addrAckclr) (go : dispatch (readStatus2 s) = .next t) : BusCase s t
  | sentPoll {t} (here : s.ctl = .txcPoll) (clean : Clean s) (go : byteDone (readStatus s) = .next t) : BusCase s t
  | sentClear {t} (here : s.ctl = .txcClear) (flag : s.pendFlag = .buserr)
      (go : byteDone (regClear .buserr s) = .next t) : BusCase s t
  | received {t} (here : s.ctl = .rxRead) (room : inReadBuffer s s.opIdx s.byteIdx = true)
      (go : byteDone (receiveByte s) = .next t) : BusCase s t
  | idleCond (here : s.ctl = .idleCond) : BusCase s (idleCond s)
  | ackEn (here : s.ctl = .sreqAckEn) : BusCase s (setAck s)
  | start (here : s.ctl = .sreqStart) : BusCase s (genStart s)
  | startedCond (here : s.ctl = .startedCond) : BusCase s (startedCond s)
  | address (here : s.ctl = .addrWrite) : BusCase s (sendAddress (addrByte s.txn.addr s.dir) s)
  | send {b} (here : s.ctl = .txWrite) (byte : sliceByte s s.opIdx s.byteIdx = some b) :
      BusCase s (goto .txcPoll (transmitByte b s))
  | arm (here : s.ctl = .armLast) : BusCase s (armLast s)
  | stop (here : s.ctl = .genStop) : BusCase s (genStop s)

theorem waitTest_targets {w : Wait} {s t : State} (h : waitTest w s = .next t) :
    (∃ p ∈ testTargets w, t = goto p s ∧ (p = .addrAckclr → s.params.addrAckClearRead = true)) ∨
    (w = .addr ∧ dispatch s = .next t) ∨ (w = .txc ∧ byteDone s = .next t) := by
  cases w <;> simp only [waitTest] at h <;> (try split at h) <;> (try split at h) <;>
    first
      | exact .inr (.inl ⟨rfl, h⟩)
      | exact .inr (.inr ⟨rfl, h⟩)
      | (cases h; exact .inl ⟨_, by simp [testTargets], rfl, by simp_all⟩)

theorem poll_case {w : Wait} {s t : State} (here : s.ctl = pollPointOf w) (h : pollPoint w s = .next t) :
    BusCase s t := by
  rcases pollPoint_cases h with ⟨clean, h⟩ | ⟨f, seen, rfl⟩
  · rcases waitTest_targets h with ⟨p, target, rfl, ack⟩ | ⟨rfl, go⟩ | ⟨rfl, go⟩
    · exact .test here clean target ack
    · exact .readyPoll here clean go
    · exact .sentPoll here clean go
  · exact .hold here seen

theorem clear_case {w : Wait} {s t : State} (here : s.ctl = clearPointOf w) (h : clearPoint w s = .next t) :
    BusCase s t := by
  rcases clearPoint_cases h with ⟨flag, h⟩ | ⟨e, err, rfl⟩
  · rcases waitTest_targets h with ⟨p, target, rfl, ack⟩ | ⟨rfl, go⟩ | ⟨rfl, go⟩
    · exact .ignore here flag target ack
    · exact .readyClear here flag go
    · exact .sentClear here flag go
  · exact .abort here err

/-- Everything a step at a control point of a bus command can do. -/
theorem bus_case {s t : State} (hb : inBusCommand s.ctl) (h : runPoint s.ctl s = .next t) : BusCase s t := by
  obtain ⟨h1, h2⟩ := hb
  cases hc : s.ctl <;> rw [hc] at h h1 h2 <;> simp only [runPoint] at h
  case rest => exact absurd rfl h1
  case newEnable | newReset | newApply => exact absurd (by decide) h2
  case reserved1C | reserved1D | reserved1E | reserved1F => cases h
  case idlePoll => exact poll_case (w := .idle) hc h
  case sreqPoll => exact poll_case (w := .sreq) hc h
  case startedPoll => exact poll_case (w := .started) hc h
  case addrPoll => exact poll_case (w := .addr) hc h
  case txePoll => exact poll_case (w := .txe) hc h
  case txcPoll => exact poll_case (w := .txc) hc h
  case rxPoll => exact poll_case (w := .rx) hc h
  case idleClear => exact clear_case (w := .idle) hc h
  case sreqClear => exact clear_case (w := .sreq) hc h
  case startedClear => exact clear_case (w := .started) hc h
  case addrClear => exact clear_case (w := .addr) hc h
  case txeClear => exact clear_case (w := .txe) hc h
  case txcClear => exact clear_case (w := .txc) hc h
  case rxClear => exact clear_case (w := .rx) hc h
  case idleCond => cases h; exact .idleCond hc
  case sreqAckEn => cases h; exact .ackEn hc
  case sreqStart => cases h; exact .start hc
  case startedCond => cases h; exact .startedCond hc
  case addrWrite => cases h; exact .address hc
  case armLast => cases h; exact .arm hc
  case genStop => cases h; exact .stop hc
  case addrAckclr =>
    unfold ackClear at h
    split at h
    · exact .readyAck hc h
    · cases h
  case txWrite =>
    unfold txWrite at h
    split at h
    · cases h
    · next b hb => cases h; exact .send hc hb
  case rxRead =>
    unfold rxRead at h
    split at h
    · next room => exact .received hc room h
    · cases h

end Sys2Proof.Machine
end

