-- ==== Sys2Proof/Laws/Commands.lean ====
section
/-! SUPPORT. Everything that accepting a command can do, and that the command stream spells commands only. -/

namespace Sys2Proof.Machine

/-- Every command that is accepted, with the state it leaves. -/
inductive AcceptCase (s : State) : Instr → State → Prop
  | new {m clk al} (free : s.handle = .unbound) (pos : m.frequency ≠ 0) :
      AcceptCase s (.new m clk al)
        { accept (.new m clk al) .new s with cfg := ⟨m, clk, al⟩, ctl := .newEnable }
  | release (held : s.handle = .bound) :
      AcceptCase s .release (deliver .ok { accept .release .release s with handle := .unbound })
  | emptyRead {a} (held : s.handle = .bound) (addr : addrCheck a = none) :
      AcceptCase s (.read a 0) 
        (raise .overrun (beginTxn a .read (latchOps a [.read 0] (accept (.read a 0) .read s))))
  | emptyTransaction {a} (held : s.handle = .bound) (addr : addrCheck a = none) :
      AcceptCase s (.transaction a []) (finishOk (latchOps a [] (accept (.transaction a []) .transaction s)))
  | bus {c k a op rest} (held : s.handle = .bound) (addr : addrCheck a = none) (kind : isBusCmd k = true)
      (shape : c.format = .h ∧ c ≠ .release ∧ ∀ m clk al, c ≠ .new m clk al) :
      AcceptCase s c (beginTxn a op.dir (latchOps a (op :: rest) (accept c k s)))

theorem whenAccepted_next {need : Handle} {s t u : State} (h : whenAccepted need s t = .next u) :
    s.handle = need ∧ s.ctl = .rest ∧ u = t := by
  unfold whenAccepted at h
  split at h <;> [split at h; skip]
  · next h1 h2 => cases h; exact ⟨h1, h2, rfl⟩
  · cases h
  · cases h

theorem acceptBus_next {c : Instr} {k : CmdKind} {a : Byte} {ops : List Operation} {s t : State}
    (h : acceptBus c k a ops s = .next t) :
    s.handle = .bound ∧ s.ctl = .rest ∧ addrCheck a = none ∧ t = startBus a ops (latchOps a ops (accept c k s)) := by
  unfold acceptBus at h
  split at h
  · cases h
  · next hc =>
    obtain ⟨h1, h2, h3⟩ := whenAccepted_next h
    exact ⟨h1, h2, hc, h3⟩

/-- An instruction of format H that answers a next state is a command, accepted at REST. -/
theorem accept_case {i : Instr} {s t : State} (hf : i.format = .h) (h : exec i s = .next t) :
    s.ctl = .rest ∧ AcceptCase s i t := by
  cases i with
  | new m clk al =>
    simp only [exec, execNew] at h
    split at h
    · cases h
    · next hp =>
      obtain ⟨h1, h2, rfl⟩ := whenAccepted_next h
      exact ⟨h2, .new h1 hp⟩
  | read a n =>
    simp only [exec, execRead] at h
    split at h
    · next h0 =>
      subst h0
      split at h
      · cases h
      · next hc =>
        obtain ⟨h1, h2, rfl⟩ := whenAccepted_next h
        exact ⟨h2, .emptyRead h1 hc⟩
    · obtain ⟨h1, h2, h3, rfl⟩ := acceptBus_next h
      exact ⟨h2, .bus h1 h3 rfl ⟨rfl, by simp, by simp⟩⟩
  | write a bs =>
    obtain ⟨h1, h2, h3, rfl⟩ := acceptBus_next h
    exact ⟨h2, .bus h1 h3 rfl ⟨rfl, by simp, by simp⟩⟩
  | writeRead a bs n =>
    obtain ⟨h1, h2, h3, rfl⟩ := acceptBus_next h
    exact ⟨h2, .bus h1 h3 rfl ⟨rfl, by simp, by simp⟩⟩
  | transaction a ops =>
    obtain ⟨h1, h2, h3, rfl⟩ := acceptBus_next h
    cases ops with
    | nil => exact ⟨h2, .emptyTransaction h1 h3⟩
    | cons op rest => exact ⟨h2, .bus h1 h3 rfl ⟨rfl, by simp, by simp⟩⟩
  | release =>
    obtain ⟨h1, h2, rfl⟩ := whenAccepted_next h
    exact ⟨h2, .release h1⟩
  | reservedOpc0 _ | reservedOpc7 _ | reservedOpc8 _ | reservedOpc9 _ | reservedOpcA _ => cases h
  | reservedOpcB _ | reservedOpcC _ | reservedOpcD _ | reservedOpcE _ | reservedOpcF _ => cases h
  | _ => cases hf

/-- What the command stream spells is always an instruction of format H. -/
theorem decodeCommand_format {ws ws' : List Word} {bs bs' : List Byte} {i : Instr}
    (h : decodeCommand ws bs = .done i ws' bs') : i.format = .h := by
  unfold decodeCommand at h
  cases ws with
  | nil => cases h
  | cons w rest =>
    simp only at h
    have hn : ∀ {w} {d : Decoded}, decodeUnaddressed w d = .done i ws' bs' → d = .done i ws' bs' := by
      intro w d h; unfold decodeUnaddressed at h; split at h
      · exact h
      · cases h
    have ha : ∀ {w} {f : Byte → Decoded}, decodeAddressed w f = .done i ws' bs' → f (headerAddr w) = .done i ws' bs' := by
      intro w f h; unfold decodeAddressed at h; split at h
      · split at h
        · cases h
        · exact h
      · cases h
    split at h
    · have h := hn h
      unfold decodeNew at h
      repeat' split at h
      all_goals cases h
      rfl
    · have h := ha h
      unfold decodeRead at h
      repeat' split at h
      all_goals cases h
      rfl
    · have h := ha h
      unfold decodeWrite at h
      repeat' split at h
      all_goals cases h
      rfl
    · have h := ha h
      unfold decodeWriteRead at h
      repeat' split at h
      all_goals cases h
      rfl
    · have h := ha h
      unfold decodeTransaction at h
      repeat' split at h
      all_goals cases h
      rfl
    · cases hn h; rfl
    all_goals (cases h; rfl)

/-- On what the command stream spells, the command's meaning is the instruction's. -/
theorem execCommand_eq {i : Instr} (s : State) (hf : i.format = .h) : execCommand i s = exec i s := by
  cases i <;> first | rfl | cases hf

/-- What receiving a word can do (R96). -/
theorem receiveWord_next {w : Word} {s t : State} (h : receiveWord w s = .next t) :
    s.ctl = .rest ∧
    (t = { s with cmdIn := s.cmdIn ++ [w] } ∨
     ∃ i ws bs, decodeCommand (s.cmdIn ++ [w]) s.wdata = .done i ws bs ∧
       AcceptCase { s with cmdIn := ws, wdata := bs } i t) := by
  unfold receiveWord at h
  split at h
  · next hr =>
    refine ⟨hr, ?_⟩
    split at h
    · next i ws bs hd =>
      have hf := decodeCommand_format hd
      rw [execCommand_eq _ hf] at h
      exact .inr ⟨i, ws, bs, hd, (accept_case hf h).2⟩
    · cases h; exact .inl rfl
    · cases h
  · cases h

/-- Everything a step at REST can do before the environment moves. -/
theorem rest_case {s t : State} (hr : s.ctl = .rest) (h : step s = .next t) :
    (decodeCommand s.cmdIn s.wdata = .incomplete ∧ t = envStep s) ∨
    ∃ i ws bs u, decodeCommand s.cmdIn s.wdata = .done i ws bs ∧
      AcceptCase { s with cmdIn := ws, wdata := bs } i u ∧ t = envStep u := by
  rw [step_at_rest hr] at h
  split at h
  · next i ws bs hd =>
    obtain ⟨u, hu, rfl⟩ := settle_next h
    exact .inr ⟨i, ws, bs, u, hd, (accept_case (decodeCommand_format hd) hu).2, rfl⟩
  · next hd => cases h; exact .inl ⟨hd, rfl⟩
  · cases h

/-- Everything a step can do, before the environment moves. -/
theorem step_cases {s t : State} (h : step s = .next t) :
    ∃ u, t = envStep u ∧
      ((s.ctl = .rest ∧ u = s) ∨
       (s.ctl = .rest ∧ ∃ i ws bs, decodeCommand s.cmdIn s.wdata = .done i ws bs ∧
          AcceptCase { s with cmdIn := ws, wdata := bs } i u) ∨
       (s.ctl = .newEnable ∧ u = newEnable s) ∨ (s.ctl = .newReset ∧ u = newReset s) ∨
       (s.ctl = .newApply ∧ u = newApply s) ∨ (inBusCommand s.ctl ∧ BusCase s u)) := by
  by_cases hr : s.ctl = .rest
  · rcases rest_case hr h with ⟨-, rfl⟩ | ⟨i, ws, bs, u, hd, ha, rfl⟩
    · exact ⟨s, rfl, .inl ⟨hr, rfl⟩⟩
    · exact ⟨u, rfl, .inr (.inl ⟨hr, i, ws, bs, hd, ha⟩)⟩
  · rw [step_at_point hr] at h
    obtain ⟨u, hu, rfl⟩ := settle_next h
    refine ⟨u, rfl, ?_⟩
    by_cases hn : s.ctl ∈ newPoints
    · simp only [newPoints, List.mem_cons, List.not_mem_nil, or_false] at hn
      rcases hn with hn | hn | hn <;> rw [hn] at hu <;> cases hu
      · exact .inr (.inr (.inl ⟨hn, rfl⟩))
      · exact .inr (.inr (.inr (.inl ⟨hn, rfl⟩)))
      · exact .inr (.inr (.inr (.inr (.inl ⟨hn, rfl⟩))))
    · exact .inr (.inr (.inr (.inr (.inr ⟨⟨hr, hn⟩, bus_case ⟨hr, hn⟩ hu⟩))))

/-! ## The environment around a step -/

/-- No instruction touches the moves laid down or the parameters: the environment's move alone takes one. -/
theorem BusCase.env {s u : State} (h : BusCase s u) : u.env = s.env ∧ u.params = s.params := by
  have ready : ∀ {a b : State}, dispatch a = .next b → b.env = a.env ∧ b.params = a.params := by
    intro a b h
    have e := congrArg State.env (dispatch_frame h).1
    have p := congrArg State.params (dispatch_frame h).1
    exact ⟨e, p⟩
  cases h with
  | readyPoll _ _ go | readyClear _ _ go | readyAck _ go | sentPoll _ _ go | sentClear _ _ go | received _ _ go =>
    have e := ready go
    exact e
  | _ => exact ⟨rfl, rfl⟩

theorem AcceptCase.env {s u : State} {i : Instr} (h : AcceptCase s i u) : u.env = s.env ∧ u.params = s.params := by
  cases h <;> exact ⟨rfl, rfl⟩

/-- A step takes the first move laid down, and every answer of the next state is that move's. -/
theorem step_environment {s t : State} {m : EnvMove} {rest : List EnvMove} (h : step s = .next t)
    (he : s.env = m :: rest) :
    t.env = rest ∧ t.params = s.params ∧ t.regs.sts = m.sts ∧ t.regs.sts2 = m.sts2 ∧
      t.regs.stopPending = m.stopPending ∧ t.regs.rxData = m.rxData := by
  obtain ⟨u, rfl, hu⟩ := step_cases h
  have key : u.env = s.env ∧ u.params = s.params := by
    rcases hu with ⟨-, rfl⟩ | ⟨-, i, ws, bs, -, ha⟩ | ⟨-, rfl⟩ | ⟨-, rfl⟩ | ⟨-, rfl⟩ | ⟨-, hb⟩
    · exact ⟨rfl, rfl⟩
    · have e := ha.env
      exact e
    · exact ⟨rfl, rfl⟩
    · exact ⟨rfl, rfl⟩
    · exact ⟨rfl, rfl⟩
    · exact hb.env
  simp [nextMove, key.1, he, key.2, moveRegs]

end Sys2Proof.Machine
end

