-- ==== Sys2Proof/Laws/Decode.lean ====
section
/-! SUPPORT. The laws of the encodings field by field: what the decoder reads from an encoded field, and that a word is
the encoding of what the decoder reads from it. -/

namespace Sys2Proof

theorem extractLsb'_append_low {n m : Nat} (x : BitVec n) (y : BitVec m) : BitVec.extractLsb' 0 m (x ++ y) = y := by
  apply BitVec.eq_of_getLsbD_eq
  intro i hi; simp [BitVec.getLsbD_append, hi]

theorem extractLsb'_append_high {n m : Nat} (x : BitVec n) (y : BitVec m) : BitVec.extractLsb' m n (x ++ y) = x := by
  apply BitVec.eq_of_getLsbD_eq
  intro i hi; simp [BitVec.getLsbD_append, hi]

theorem extractLsb'_append_middle {n m k : Nat} (x : BitVec n) (y : BitVec m) (z : BitVec k) :
    BitVec.extractLsb' k m (x ++ y ++ z) = y := by
  apply BitVec.eq_of_getLsbD_eq
  intro i hi; simp [BitVec.getLsbD_append, hi]

theorem extractLsb'_append_top {n m k : Nat} (x : BitVec n) (y : BitVec m) (z : BitVec k) :
    BitVec.extractLsb' (k + m) n (x ++ y ++ z) = x := by
  apply BitVec.eq_of_getLsbD_eq
  intro i hi
  simp [BitVec.getLsbD_append, hi, show ¬ (k + m + i < k) by omega, show k + m + i - k = m + i by omega]

/-! ## Reading an encoded field -/

theorem headerOpc_headerWord (o : BitVec 4) (a : Byte) : headerOpc (headerWord o a) = o := extractLsb'_append_top o 0#4 a

theorem headerZero_headerWord (o : BitVec 4) (a : Byte) : headerZero (headerWord o a) = 0 :=
  extractLsb'_append_middle o 0#4 a

theorem headerAddr_headerWord (o : BitVec 4) (a : Byte) : headerAddr (headerWord o a) = a := extractLsb'_append_low _ _

theorem headerOpc_reservedWord (o : BitVec 4) (low : BitVec 12) : headerOpc (reservedWord o low) = o :=
  extractLsb'_append_high o low

theorem headerLow_reservedWord (o : BitVec 4) (low : BitVec 12) : headerLow (reservedWord o low) = low :=
  extractLsb'_append_low _ _

theorem descLen_append (d : Dir) (n : BitVec 15) : descLen (dirBit d ++ n) = n := extractLsb'_append_low _ _

theorem descDir_append (d : Dir) (n : BitVec 15) : descDir (dirBit d ++ n) = d := by
  have h : (dirBit d ++ n : BitVec (1 + 15)).getLsbD 15 = (dirBit d).getLsbD 0 := by
    rw [BitVec.getLsbD_append]; simp
  unfold descDir
  change (if (dirBit d ++ n : BitVec (1 + 15)).getLsbD 15 = true then _ else _) = _
  rw [h]; cases d <;> rfl

theorem descDir_descWord (d : Dir) (n : Nat) : descDir (descWord d n) = d := descDir_append _ _

theorem descLen_descWord (d : Dir) {n : Nat} (h : n < 2 ^ 15) : (descLen (descWord d n)).toNat = n := by
  unfold descWord
  rw [descLen_append]; simp; omega

theorem joinWords_split {n : Nat} (h : n < 2 ^ 32) :
    joinWords (BitVec.ofNat 16 n) (BitVec.ofNat 16 (n / 2 ^ 16)) = n := by
  simp [joinWords]; omega

theorem modeWordBits_read (m : Mode) (al : Bool) :
    modeWordZero (modeWordBits m.kind m.duty al) = true ∧ (modeWordBits m.kind m.duty al).getLsbD 13 = al ∧
    modeOf (modeWordBits m.kind m.duty al) m.frequency = m := by
  cases m with
  | standard f => simp only [Mode.kind, Mode.duty]; cases al <;> exact ⟨by decide, by decide, rfl⟩
  | fast f d => simp only [Mode.kind, Mode.duty]; cases d <;> cases al <;> exact ⟨by decide, by decide, rfl⟩

theorem takeBytes_append (bs rest : List Byte) : takeBytes bs.length (bs ++ rest) = some (bs, rest) := by
  induction bs with
  | nil => simp [takeBytes]
  | cons b bs ih => simp [takeBytes, ih]

theorem takeOperations_append (ops : List Operation) (ws : List Word) (bs : List Byte)
    (h : ops.all Operation.fits = true) :
    takeOperations ops.length (ops.map Operation.word ++ ws) (ops.flatMap Operation.wdata ++ bs) = some (ops, ws, bs) := by
  induction ops with
  | nil => simp [takeOperations]
  | cons op ops ih =>
    simp only [List.all_cons, Bool.and_eq_true] at h
    obtain ⟨h1, h2⟩ := h
    have ih := ih h2
    simp only [Operation.fits, decide_eq_true_eq] at h1
    cases op with
    | write b =>
      simp only [Operation.length] at h1
      have e := takeBytes_append b (ops.flatMap Operation.wdata ++ bs)
      simp [takeOperations, takeOperation, Operation.word, Operation.dir, Operation.length, descDir_descWord,
        descLen_descWord _ h1, Operation.wdata, e, ih]
    | read n =>
      simp only [Operation.length] at h1
      simp [takeOperations, takeOperation, Operation.word, Operation.dir, Operation.length, descDir_descWord,
        descLen_descWord _ h1, Operation.wdata, ih]

/-! ## A word is the encoding of what is read from it -/

theorem takeBytes_some {n : Nat} {bs taken rest : List Byte} (h : takeBytes n bs = some (taken, rest)) :
    bs = taken ++ rest ∧ taken.length = n := by
  induction n generalizing bs taken with
  | zero => simp [takeBytes] at h; simp [h]
  | succ n ih =>
    cases bs with
    | nil => simp [takeBytes] at h
    | cons b bs =>
      simp only [takeBytes, Option.map_eq_some_iff, Prod.exists, Prod.mk.injEq] at h
      obtain ⟨a, r, h1, rfl, rfl⟩ := h
      obtain ⟨rfl, rfl⟩ := ih h1
      simp

theorem dirBit_descDir_append (w : Word) : dirBit (descDir w) ++ descLen w = w := by
  have h : dirBit (descDir w) = BitVec.ofBool (w.getLsbD 15) := by
    unfold descDir; cases w.getLsbD 15 <;> rfl
  apply BitVec.eq_of_getLsbD_eq
  intro i hi
  rw [h, BitVec.getLsbD_append]
  by_cases hlt : i < 15
  · simp [hlt, descLen]
  · have : i = 15 := by omega
    subst this; simp

theorem descWord_of_descDir {w : Word} {d : Dir} (h : descDir w = d) : descWord d (descLen w).toNat = w := by
  subst h
  unfold descWord
  simpa using dirBit_descDir_append w

theorem headerWord_of_headerZero {w : Word} (h : headerZero w = 0) : headerWord (headerOpc w) (headerAddr w) = w := by
  apply BitVec.eq_of_getLsbD_eq
  intro i hi
  rw [headerWord, BitVec.getLsbD_append, BitVec.getLsbD_append]
  by_cases h1 : i < 8
  · simp [h1, headerAddr]
  · by_cases h2 : i - 8 < 4
    · have := congrArg (fun y => y.getLsbD (i - 8)) h
      simp only [headerZero, BitVec.getLsbD_extractLsb', h2, decide_true, Bool.true_and] at this
      rw [show 8 + (i - 8) = i by omega] at this
      simp [h1, h2, this]
    · simp only [h1, h2, headerOpc, BitVec.getLsbD_extractLsb', if_false]
      rw [show 12 + (i - 8 - 4) = i by omega]
      simp [show i - 8 - 4 < 4 by omega]

theorem reservedWord_read (w : Word) : reservedWord (headerOpc w) (headerLow w) = w := by
  apply BitVec.eq_of_getLsbD_eq
  intro i hi
  rw [reservedWord, BitVec.getLsbD_append]
  by_cases h1 : i < 12
  · simp [h1, headerLow]
  · simp only [h1, if_false, headerOpc, BitVec.getLsbD_extractLsb']
    rw [show 12 + (i - 12) = i by omega]
    simp [show i - 12 < 4 by omega]

theorem splitWords_joinWords (lo hi : Word) : splitWords (joinWords lo hi) = [lo, hi] ∧ joinWords lo hi < 2 ^ 32 := by
  have h1 := lo.isLt
  have h2 := hi.isLt
  refine ⟨?_, by unfold joinWords; omega⟩
  simp only [splitWords, joinWords, List.cons.injEq, and_true]
  constructor <;> apply BitVec.eq_of_toNat_eq <;> simp only [BitVec.toNat_ofNat] <;> omega

theorem modeWordBits_of_modeWordZero {w : Word} (hz : modeWordZero w = true) (f : Nat) :
    modeWordBits (modeOf w f).kind (modeOf w f).duty (w.getLsbD 13) = w := by
  simp only [modeWordZero, Bool.and_eq_true, beq_iff_eq, Bool.or_eq_true, Bool.not_eq_true'] at hz
  obtain ⟨h1, h2⟩ := hz
  have hk : ((modeOf w f).kind == .fast) = w.getLsbD 15 := by
    unfold modeOf; cases w.getLsbD 15 <;> rfl
  have hd : ((modeOf w f).duty == .duty16to9) = w.getLsbD 14 := by
    unfold modeOf
    cases h15 : w.getLsbD 15 <;> cases h14 : w.getLsbD 14 <;> simp_all [Mode.duty]
  unfold modeWordBits
  rw [hk, hd]
  apply BitVec.eq_of_getLsbD_eq
  intro i hi
  rw [BitVec.getLsbD_append, BitVec.getLsbD_append, BitVec.getLsbD_append]
  by_cases h3 : i < 13
  · have := congrArg (fun y => y.getLsbD i) h1
    simp only [BitVec.getLsbD_extractLsb', h3, decide_true, Bool.true_and, Nat.zero_add] at this
    simp [h3, this]
  · have : i = 13 ∨ i = 14 ∨ i = 15 := by omega
    rcases this with rfl | rfl | rfl <;> simp

theorem takeOperation_some {w : Word} {bs rest : List Byte} {op : Operation} (h : takeOperation w bs = some (op, rest)) :
    w = op.word ∧ op.fits = true ∧ bs = op.wdata ++ rest := by
  unfold takeOperation at h
  split at h
  · next hd =>
    simp only [Option.some.injEq, Prod.mk.injEq] at h
    obtain ⟨rfl, rfl⟩ := h
    exact ⟨(descWord_of_descDir hd).symm, decide_eq_true (descLen w).isLt, rfl⟩
  · next hd =>
    simp only [Option.map_eq_some_iff, Prod.exists, Prod.mk.injEq] at h
    obtain ⟨b, r, h3, rfl, rfl⟩ := h
    obtain ⟨rfl, h5⟩ := takeBytes_some h3
    refine ⟨?_, decide_eq_true ?_, rfl⟩
    · simp only [Operation.word, Operation.dir, Operation.length, h5, descWord_of_descDir hd]
    · simp only [Operation.length, h5]; exact (descLen w).isLt

theorem takeOperations_some {n : Nat} {ws ws' : List Word} {bs bs' : List Byte} {ops : List Operation}
    (h : takeOperations n ws bs = some (ops, ws', bs')) :
    ops.length = n ∧ ops.all Operation.fits = true ∧ ws = ops.map Operation.word ++ ws' ∧
      bs = ops.flatMap Operation.wdata ++ bs' := by
  induction n generalizing ws bs ops with
  | zero => simp [takeOperations] at h; obtain ⟨rfl, rfl, rfl⟩ := h; simp
  | succ n ih =>
    cases ws with
    | nil => simp [takeOperations] at h
    | cons w ws =>
      simp only [takeOperations] at h
      split at h
      · cases h
      · next op rest hop =>
        simp only [Option.map_eq_some_iff, Prod.exists, Prod.mk.injEq] at h
        obtain ⟨ops', v, b, h2, rfl, rfl, rfl⟩ := h
        obtain ⟨i1, i2, i3, i4⟩ := ih h2
        obtain ⟨rfl, f, rfl⟩ := takeOperation_some hop
        refine ⟨by simp [i1], ?_, by simp [← i3], by simp [← i4]⟩
        rw [List.all_cons, f, i2]; rfl

end Sys2Proof
end

