-- ==== Sys2Proof/Laws/History.lean ====
section
/-! SUPPORT. The laws of the history's counting functions under appending events, and of the address phases of a
sequence as it is followed operation by operation. -/

namespace Sys2Proof.Machine

/-! ## Segments -/

/-- Events that open no command extend the segment. -/
theorem segmentOf_append (h es : List Event) (hes : ∀ e ∈ es, isCmd e = false) :
    segmentOf (h ++ es) = segmentOf h ++ es := by
  simp only [segmentOf, List.reverse_append]
  rw [List.takeWhile_append_of_pos (by intro a ha; simp [hes a (List.mem_reverse.1 ha)])]
  simp

/-- A `Cmd` opens an empty segment. -/
theorem segmentOf_cmd (h : List Event) (c : Instr) : segmentOf (h ++ [.cmd c]) = [] := by
  simp [segmentOf, isCmd]

/-- The segment is the end of the history. -/
theorem segmentOf_suffix (h : List Event) : segmentOf h <:+ h := by
  have := List.reverse_suffix.2 (List.takeWhile_prefix (fun e => !isCmd e) (l := h.reverse))
  simpa [segmentOf] using this

/-! ## Counting functions -/

theorem nStart_append (l m : List Event) : nStart (l ++ m) = nStart l + nStart m := List.countP_append

theorem nStop_append (l m : List Event) : nStop (l ++ m) = nStop l + nStop m := List.countP_append

theorem nArm_append (l m : List Event) : nArm (l ++ m) = nArm l + nArm m := List.countP_append

theorem nAck_append (l m : List Event) : nAck (l ++ m) = nAck l + nAck m := List.countP_append

theorem sentBytes_append (l m : List Event) : sentBytes (l ++ m) = sentBytes l ++ sentBytes m := List.filterMap_append

theorem storedBytes_append (l m : List Event) : storedBytes (l ++ m) = storedBytes l ++ storedBytes m :=
  List.filterMap_append

theorem readBytes_append (l m : List Event) : readBytes (l ++ m) = readBytes l ++ readBytes m := List.filterMap_append

/-- The last event is no `BufRd` (its `Wr(DATA)` always follows in the same step). -/
def Paired (l : List Event) : Prop := ∀ k i b, l.getLast? ≠ some (.bufRd k i b)

theorem Paired.tail {e : Event} {l : List Event} (h : Paired (e :: l)) : Paired l := by
  intro k i b hl
  cases l with
  | nil => cases hl
  | cons x xs => exact h k i b (by rw [List.getLast?_cons_cons]; exact hl)

theorem Paired.segmentOf {h : List Event} (hh : Paired h) : Paired (Machine.segmentOf h) := by
  intro k i b hl
  obtain ⟨p, hp⟩ := segmentOf_suffix h
  exact hh k i b (by rw [← hp, List.getLast?_append, hl]; rfl)

theorem addressBytes_append (l m : List Event) (h : Paired l) :
    addressBytes (l ++ m) = addressBytes l ++ addressBytes m := by
  induction l using addressBytes.induct with
  | case1 => rfl
  | case2 k i b b' rest ih =>
    simp only [List.cons_append, addressBytes]
    exact ih h.tail.tail
  | case3 b rest ih =>
    simp only [List.cons_append, addressBytes]
    rw [ih h.tail]
  | case4 e rest h1 h2 ih =>
    have ih := ih h.tail
    cases e with
    | bufRd k i b =>
      cases rest with
      | nil => exact absurd rfl (h k i b)
      | cons x xs =>
        cases x with
        | wrData y => exact absurd rfl (h1 _ _ _ _ _ rfl)
        | _ => simpa [addressBytes] using ih
    | wrData y => exact absurd rfl (h2 _)
    | _ => simpa [addressBytes] using ih

/-! ## Address phases -/

/-- The direction of the last operation of a list, or a given one. -/
def lastDir (d : Dir) (l : List Operation) : Dir := (l.getLast?.map Operation.dir).getD d

theorem lastDir_cons (d : Dir) (x : Operation) (l : List Operation) : lastDir d (x :: l) = lastDir x.dir l := by
  cases l <;> simp [lastDir, List.getLast?_cons]

theorem phasesAfter_snoc (d : Dir) (l : List Operation) (x : Operation) :
    phasesAfter d (l ++ [x]) = phasesAfter d l ++ (if x.dir = lastDir d l then [] else [x.dir]) := by
  induction l generalizing d with
  | nil => by_cases h : x.dir = d <;> simp [phasesAfter, lastDir, h]
  | cons y ys ih =>
    simp only [List.cons_append, phasesAfter, ih, lastDir_cons]
    by_cases h : y.dir = d <;> simp [h]

theorem phasesAfter_last (d : Dir) (l : List Operation) : ∃ pre, d :: phasesAfter d l = pre ++ [lastDir d l] := by
  induction l generalizing d with
  | nil => exact ⟨[], by simp [phasesAfter, lastDir]⟩
  | cons y ys ih =>
    obtain ⟨pre, hp⟩ := ih y.dir
    rw [phasesAfter, lastDir_cons]
    by_cases h : y.dir = d
    · rw [if_pos h, ← h]; exact ⟨pre, hp⟩
    · rw [if_neg h]; exact ⟨d :: pre, by rw [hp]; rfl⟩

theorem take_succ_of_get {ops : List Operation} {k : Nat} {op : Operation} (h : ops[k]? = some op) :
    ops.take (k + 1) = ops.take k ++ [op] := by
  obtain ⟨hl, rfl⟩ := List.getElem?_eq_some_iff.1 h
  simp

/-- The last address phase up to an operation has its direction. -/
theorem phasesOf_take_last {ops : List Operation} {k : Nat} {op : Operation} (h : ops[k]? = some op) :
    ∃ pre, phasesOf (ops.take (k + 1)) = pre ++ [op.dir] := by
  rw [take_succ_of_get h]
  cases ops.take k with
  | nil => exact ⟨[], by simp [phasesOf, phasesAfter]⟩
  | cons x xs =>
    obtain ⟨pre, hp⟩ := phasesAfter_last x.dir (xs ++ [op])
    exact ⟨pre, by simp only [List.cons_append, phasesOf]; rw [hp]; simp [lastDir]⟩

/-- One operation further: one more address phase where the direction changes (R211). -/
theorem phasesOf_take_next {ops : List Operation} {k : Nat} {op op' : Operation} (h : ops[k]? = some op)
    (h' : ops[k + 1]? = some op') :
    phasesOf (ops.take (k + 1 + 1)) = phasesOf (ops.take (k + 1)) ++ (if op'.dir = op.dir then [] else [op'.dir]) := by
  rw [take_succ_of_get h', take_succ_of_get h]
  cases ops.take k with
  | nil => simp [phasesOf, phasesAfter]
  | cons x xs =>
    simp only [List.cons_append, phasesOf]
    rw [phasesAfter_snoc]
    simp [lastDir]

theorem bytesRead_snoc (l : List Operation) (op : Operation) :
    bytesRead (l ++ [op]) = bytesRead l + (if op.dir = .read then op.length else 0) := by
  cases op <;> simp [bytesRead, Operation.dir, Operation.length]

theorem take_wdata_of_length_le {op : Operation} {n : Nat} (h : op.length ≤ n) : op.wdata.take n = op.wdata := by
  cases op with
  | write bs => simpa [Operation.wdata] using List.take_of_length_le h
  | read n => simp [Operation.wdata]

/-- Passing over an operation sets `byte_idx` to 0. -/
theorem Advanced.byteIdx_zero {s u : State} (h : Advanced s u) : s = u ∨ u.byteIdx = 0 := by
  induction h with
  | refl s => exact .inl rfl
  | step _ _ _ _ _ ih => rcases ih with rfl | ih <;> [exact .inr rfl; exact .inr ih]

end Sys2Proof.Machine
end

