-- ==== Sys2Proof/Laws/Memory.lean ====
section
/-! SUPPORT. The laws of memory: a read after a write, and that every memory operation keeps the canonical form. -/

namespace Sys2Proof.Machine

theorem memRead_memWrite_same (m : Memory) (x : Nat) (v : Byte) : memRead (memWrite m x v) x = some v := by
  induction m with
  | nil => simp [memWrite, memRead]
  | cons c m ih =>
    obtain ⟨a, b⟩ := c
    by_cases h : x < a
    · simp [memWrite, memRead, h]
    · by_cases h' : x = a <;> simp [memWrite, memRead, h, h', ih]

theorem memRead_memWrite_other (m : Memory) {x y : Nat} (v : Byte) (h : y ≠ x) :
    memRead (memWrite m x v) y = memRead m y := by
  induction m with
  | nil => simp [memWrite, memRead, h]
  | cons c m ih =>
    obtain ⟨a, b⟩ := c
    by_cases h1 : x < a
    · simp [memWrite, memRead, h1, h]
    · by_cases h2 : x = a
      · subst h2; simp [memWrite, memRead, h]
      · simp [memWrite, memRead, h1, h2, ih]

theorem mem_memWrite {m : Memory} {x : Nat} {v : Byte} {c : Host.Cell} (h : c ∈ memWrite m x v) :
    c.1 = x ∨ c ∈ m := by
  induction m with
  | nil => simp [memWrite] at h; simp [h]
  | cons d m ih =>
    obtain ⟨a, b⟩ := d
    simp only [memWrite] at h
    split at h
    · simp only [List.mem_cons] at h ⊢; rcases h with rfl | h <;> simp_all
    · split at h
      · simp only [List.mem_cons] at h ⊢; rcases h with rfl | h <;> simp_all
      · simp only [List.mem_cons] at h ⊢
        rcases h with rfl | h
        · simp
        · rcases ih h with h | h <;> simp [h]

/-- A write keeps the canonical form. -/
theorem memWrite_wf {m : Memory} (x : Nat) (v : Byte) (h : m.wf) : (memWrite m x v).wf := by
  induction m with
  | nil => simp [memWrite, Memory.wf]
  | cons d m ih =>
    obtain ⟨a, b⟩ := d
    obtain ⟨h1, h2⟩ := List.pairwise_cons.1 h
    simp only [memWrite]
    split
    · next hx =>
      refine List.pairwise_cons.2 ⟨fun c hc => ?_, h⟩
      rcases List.mem_cons.1 hc with rfl | hc
      · exact hx
      · exact Nat.lt_trans hx (h1 c hc)
    · next hx =>
      split
      · next hx' => subst hx'; exact List.pairwise_cons.2 ⟨h1, h2⟩
      · next hx' =>
        refine List.pairwise_cons.2 ⟨fun c hc => ?_, ih h2⟩
        rcases mem_memWrite hc with hc | hc
        · simp only [hc]; omega
        · exact h1 c hc

/-- A buffer address determines the call, the operation and the index (R60). -/
theorem bufAddr_inj {c k i c' k' i' : Nat} (h : bufAddr c k i = bufAddr c' k' i') : c = c' ∧ k = k' ∧ i = i' := by
  simp only [bufAddr, Nat.pair_eq_pair] at h
  exact ⟨h.1, h.2.1, h.2.2⟩

theorem reset_memory_wf : State.reset.mem.wf := List.Pairwise.nil

end Sys2Proof.Machine
end

