-- ==== Sys2Proof/Laws/PerInstr.lean ====
section
/-! SUPPORT. The statements made per instruction. RowBits: the first word, byte or code of every instruction's encoding
has the fixed bits of its row of spec/opcode_table.json. -/

namespace Sys2Proof.Laws.RowBits

/-- The row of spec/opcode_table.json: its mask and its match. The rows of format UOP, which have neither, are given by
their encoding. -/
def tableRow : Instr → Nat × Nat
  | .new _ _ _ => (0xFFFF, 0x1000)
  | .read _ _ => (0xFF00, 0x2000)
  | .write _ _ => (0xFF00, 0x3000)
  | .writeRead _ _ _ => (0xFF00, 0x4000)
  | .transaction _ _ => (0xFF00, 0x5000)
  | .release => (0xFFFF, 0x6000)
  | .reservedOpc0 _ => (0xF000, 0x0000)
  | .reservedOpc7 _ => (0xF000, 0x7000)
  | .reservedOpc8 _ => (0xF000, 0x8000)
  | .reservedOpc9 _ => (0xF000, 0x9000)
  | .reservedOpcA _ => (0xF000, 0xA000)
  | .reservedOpcB _ => (0xF000, 0xB000)
  | .reservedOpcC _ => (0xF000, 0xC000)
  | .reservedOpcD _ => (0xF000, 0xD000)
  | .reservedOpcE _ => (0xF000, 0xE000)
  | .reservedOpcF _ => (0xF000, 0xF000)
  | .modeWord _ _ _ => (0x1FFF, 0x0000)
  | .countWord _ => (0x0000, 0x0000)
  | .opWrite _ => (0x8000, 0x0000)
  | .opRead _ => (0x8000, 0x8000)
  | .addrByteW _ => (0x01, 0x00)
  | .addrByteR _ => (0x01, 0x01)
  | .resOk => (0xFF, 0x00)
  | .resErrOverrun => (0xFF, 0x80)
  | .resErrNoackAddress => (0xFF, 0x90)
  | .resErrNoackData => (0xFF, 0x91)
  | .resErrNoackUnknown => (0xFF, 0x92)
  | .resErrTimeout => (0xFF, 0xA0)
  | .resErrBus => (0xFF, 0xB0)
  | .resErrCrc => (0xFF, 0xC0)
  | .resErrArbitrationLoss => (0xFF, 0xD0)
  | .ctlRest => (0x1F, 0x00)
  | .ctlNewEnable => (0x1F, 0x01)
  | .ctlNewReset => (0x1F, 0x02)
  | .ctlNewApply => (0x1F, 0x03)
  | .ctlIdlePoll => (0x1F, 0x04)
  | .ctlIdleClear => (0x1F, 0x05)
  | .ctlIdleCond => (0x1F, 0x06)
  | .ctlSreqAckEn => (0x1F, 0x07)
  | .ctlSreqStart => (0x1F, 0x08)
  | .ctlSreqPoll => (0x1F, 0x09)
  | .ctlSreqClear => (0x1F, 0x0A)
  | .ctlStartedPoll => (0x1F, 0x0B)
  | .ctlStartedClear => (0x1F, 0x0C)
  | .ctlStartedCond => (0x1F, 0x0D)
  | .ctlAddrWrite => (0x1F, 0x0E)
  | .ctlAddrPoll => (0x1F, 0x0F)
  | .ctlAddrClear => (0x1F, 0x10)
  | .ctlTxePoll => (0x1F, 0x11)
  | .ctlTxeClear => (0x1F, 0x12)
  | .ctlTxWrite => (0x1F, 0x13)
  | .ctlTxcPoll => (0x1F, 0x14)
  | .ctlTxcClear => (0x1F, 0x15)
  | .ctlRxPoll => (0x1F, 0x16)
  | .ctlRxClear => (0x1F, 0x17)
  | .ctlRxRead => (0x1F, 0x18)
  | .ctlArmLast => (0x1F, 0x19)
  | .ctlGenStop => (0x1F, 0x1A)
  | .ctlAddrAckclr => (0x1F, 0x1B)
  | .ctlReserved1C => (0x1F, 0x1C)
  | .ctlReserved1D => (0x1F, 0x1D)
  | .ctlReserved1E => (0x1F, 0x1E)
  | .ctlReserved1F => (0x1F, 0x1F)
  | .pollErrors _ => (0x00, 0x00)
  | .waitStopIdle => (0x1F, 0x04)
  | .setAck => (0x1F, 0x07)
  | .genStart => (0x1F, 0x08)
  | .uopArmLast => (0x1F, 0x19)
  | .uopGenStop => (0x1F, 0x1A)
  | .addressPhase => (0x1F, 0x04)
  | .sendByte => (0x1F, 0x11)
  | .recvByte => (0x1F, 0x16)
  | .writeBytes => (0x1F, 0x11)
  | .readBytes => (0x1F, 0x16)
  | .writeWoPrepare => (0x1F, 0x11)
  | .readWoPrepare => (0x1F, 0x16)

/-- The bits of the first word, byte or code that a mask keeps. -/
def fixedBits (mask : Nat) : Image → Nat
  | .stream (w :: _) _ => (w &&& BitVec.ofNat 16 mask).toNat
  | .stream [] _ => 0
  | .byte b => (b &&& BitVec.ofNat 8 mask).toNat
  | .code c => (c &&& BitVec.ofNat 5 mask).toNat

/-- The encoding has the fixed bits of its row. -/
def Statement (i : Instr) : Prop := fixedBits (tableRow i).1 (encode i) = (tableRow i).2

theorem and_high {n m : Nat} (x : BitVec n) (y : BitVec m) :
    (x ++ y) &&& (BitVec.allOnes n ++ 0#m) = x ++ 0#m := by
  apply BitVec.eq_of_getLsbD_eq
  intro i hi
  simp only [BitVec.getLsbD_and, BitVec.getLsbD_append]
  by_cases h : i < m
  · simp [h]
  · simp [h]; intro; omega

theorem and_low {n m : Nat} (x : BitVec n) (y : BitVec m) :
    (x ++ y) &&& (0#n ++ BitVec.allOnes m) = 0#n ++ y := by
  apply BitVec.eq_of_getLsbD_eq
  intro i hi
  simp only [BitVec.getLsbD_and, BitVec.getLsbD_append]
  by_cases h : i < m <;> simp [h]

theorem header_bits (opc : BitVec 4) (a : Byte) :
    (headerWord opc a &&& 0xFF00#16).toNat = ((opc ++ 0#4) ++ 0#8 : BitVec 16).toNat :=
  congrArg BitVec.toNat (and_high (opc ++ 0#4) a)

theorem reserved_bits (opc : BitVec 4) (low : BitVec 12) :
    (reservedWord opc low &&& 0xF000#16).toNat = (opc ++ 0#12 : BitVec 16).toNat :=
  congrArg BitVec.toNat (and_high opc low)

theorem desc_bits (d : Dir) (len : BitVec 15) :
    ((dirBit d ++ len : BitVec 16) &&& 0x8000#16).toNat = (dirBit d ++ 0#15 : BitVec 16).toNat :=
  congrArg BitVec.toNat (and_high (dirBit d) len)

theorem addr_bits (a : BitVec 7) (d : Dir) :
    (addrByteBits a d &&& 0x01#8).toNat = (0#7 ++ dirBit d : BitVec 8).toNat :=
  congrArg BitVec.toNat (and_low a (dirBit d))

theorem new (m : Mode) (clk : Nat) (al : Bool) : Statement (.new m clk al) :=
  show (headerWord 1 0 &&& 0xFFFF#16).toNat = 0x1000 by decide
theorem read (a : Byte) (n : Nat) : Statement (.read a n) := header_bits 2 a
theorem write (a : Byte) (bs : List Byte) : Statement (.write a bs) := header_bits 3 a
theorem writeRead (a : Byte) (bs : List Byte) (n : Nat) : Statement (.writeRead a bs n) := header_bits 4 a
theorem transaction (a : Byte) (ops : List Operation) : Statement (.transaction a ops) := header_bits 5 a
theorem release : Statement .release := rfl
theorem reservedOpc0 (low : BitVec 12) : Statement (.reservedOpc0 low) := reserved_bits 0x0 low
theorem reservedOpc7 (low : BitVec 12) : Statement (.reservedOpc7 low) := reserved_bits 0x7 low
theorem reservedOpc8 (low : BitVec 12) : Statement (.reservedOpc8 low) := reserved_bits 0x8 low
theorem reservedOpc9 (low : BitVec 12) : Statement (.reservedOpc9 low) := reserved_bits 0x9 low
theorem reservedOpcA (low : BitVec 12) : Statement (.reservedOpcA low) := reserved_bits 0xA low
theorem reservedOpcB (low : BitVec 12) : Statement (.reservedOpcB low) := reserved_bits 0xB low
theorem reservedOpcC (low : BitVec 12) : Statement (.reservedOpcC low) := reserved_bits 0xC low
theorem reservedOpcD (low : BitVec 12) : Statement (.reservedOpcD low) := reserved_bits 0xD low
theorem reservedOpcE (low : BitVec 12) : Statement (.reservedOpcE low) := reserved_bits 0xE low
theorem reservedOpcF (low : BitVec 12) : Statement (.reservedOpcF low) := reserved_bits 0xF low
theorem modeWord (k : SpeedKind) (d : Duty) (al : Bool) : Statement (.modeWord k d al) := by
  cases k <;> cases d <;> cases al <;> rfl
theorem countWord (n : BitVec 16) : Statement (.countWord n) := by
  simp [Statement, tableRow, fixedBits, encode]
theorem opWrite (len : BitVec 15) : Statement (.opWrite len) := desc_bits .write len
theorem opRead (len : BitVec 15) : Statement (.opRead len) := desc_bits .read len
theorem addrByteW (a : BitVec 7) : Statement (.addrByteW a) := addr_bits a .write
theorem addrByteR (a : BitVec 7) : Statement (.addrByteR a) := addr_bits a .read
theorem resOk : Statement .resOk := rfl
theorem resErrOverrun : Statement .resErrOverrun := rfl
theorem resErrNoackAddress : Statement .resErrNoackAddress := rfl
theorem resErrNoackData : Statement .resErrNoackData := rfl
theorem resErrNoackUnknown : Statement .resErrNoackUnknown := rfl
theorem resErrTimeout : Statement .resErrTimeout := rfl
theorem resErrBus : Statement .resErrBus := rfl
theorem resErrCrc : Statement .resErrCrc := rfl
theorem resErrArbitrationLoss : Statement .resErrArbitrationLoss := rfl
theorem ctlRest : Statement .ctlRest := rfl
theorem ctlNewEnable : Statement .ctlNewEnable := rfl
theorem ctlNewReset : Statement .ctlNewReset := rfl
theorem ctlNewApply : Statement .ctlNewApply := rfl
theorem ctlIdlePoll : Statement .ctlIdlePoll := rfl
theorem ctlIdleClear : Statement .ctlIdleClear := rfl
theorem ctlIdleCond : Statement .ctlIdleCond := rfl
theorem ctlSreqAckEn : Statement .ctlSreqAckEn := rfl
theorem ctlSreqStart : Statement .ctlSreqStart := rfl
theorem ctlSreqPoll : Statement .ctlSreqPoll := rfl
theorem ctlSreqClear : Statement .ctlSreqClear := rfl
theorem ctlStartedPoll : Statement .ctlStartedPoll := rfl
theorem ctlStartedClear : Statement .ctlStartedClear := rfl
theorem ctlStartedCond : Statement .ctlStartedCond := rfl
theorem ctlAddrWrite : Statement .ctlAddrWrite := rfl
theorem ctlAddrPoll : Statement .ctlAddrPoll := rfl
theorem ctlAddrClear : Statement .ctlAddrClear := rfl
theorem ctlTxePoll : Statement .ctlTxePoll := rfl
theorem ctlTxeClear : Statement .ctlTxeClear := rfl
theorem ctlTxWrite : Statement .ctlTxWrite := rfl
theorem ctlTxcPoll : Statement .ctlTxcPoll := rfl
theorem ctlTxcClear : Statement .ctlTxcClear := rfl
theorem ctlRxPoll : Statement .ctlRxPoll := rfl
theorem ctlRxClear : Statement .ctlRxClear := rfl
theorem ctlRxRead : Statement .ctlRxRead := rfl
theorem ctlArmLast : Statement .ctlArmLast := rfl
theorem ctlGenStop : Statement .ctlGenStop := rfl
theorem ctlAddrAckclr : Statement .ctlAddrAckclr := rfl
theorem ctlReserved1C : Statement .ctlReserved1C := rfl
theorem ctlReserved1D : Statement .ctlReserved1D := rfl
theorem ctlReserved1E : Statement .ctlReserved1E := rfl
theorem ctlReserved1F : Statement .ctlReserved1F := rfl
theorem pollErrors (w : Wait) : Statement (.pollErrors w) := by cases w <;> rfl
theorem waitStopIdle : Statement .waitStopIdle := rfl
theorem setAck : Statement .setAck := rfl
theorem genStart : Statement .genStart := rfl
theorem uopArmLast : Statement .uopArmLast := rfl
theorem uopGenStop : Statement .uopGenStop := rfl
theorem addressPhase : Statement .addressPhase := rfl
theorem sendByte : Statement .sendByte := rfl
theorem recvByte : Statement .recvByte := rfl
theorem writeBytes : Statement .writeBytes := rfl
theorem readBytes : Statement .readBytes := rfl
theorem writeWoPrepare : Statement .writeWoPrepare := rfl
theorem readWoPrepare : Statement .readWoPrepare := rfl

end Sys2Proof.Laws.RowBits
end

