-- ==== Sys2Proof/Machine/Text.lean ====
section
/-! DEFINITION. The textual form of a command (R105), for reading traces: no rule of the block depends on it. -/

namespace Sys2Proof.Machine

/-- A byte or an address: "in hexadecimal with `0x`". -/
def hexText (b : Byte) : List Char := "0x".toList ++ [Nat.digitChar (b.toNat / 16), Nat.digitChar (b.toNat % 16)].map Char.toUpper

/-- A length or a frequency: "in decimal". -/
def decText (n : Nat) : List Char := Nat.toDigits 10 n

/-- Items with a comma and a space between them. -/
def commaText : List (List Char) → List Char
  | [] => []
  | [x] => x
  | x :: rest => x ++ ", ".toList ++ commaText rest

/-- A list in square brackets. -/
def listText (items : List (List Char)) : List Char := "[".toList ++ commaText items ++ "]".toList

/-- A byte slice: `[b0, b1, ...]`. -/
def bytesText (bs : List Byte) : List Char := listText (bs.map hexText)

/-- An operation: `W[b0, b1, ...]` or `R(N)`. -/
def Operation.text : Operation → List Char
  | .write bs => "W".toList ++ bytesText bs
  | .read n => "R(".toList ++ decText n ++ ")".toList

/-- A duty cycle. -/
def dutyText : Duty → List Char
  | .duty2to1 => "2:1".toList
  | .duty16to9 => "16:9".toList

/-- The opening and the closing brace. -/
def braces (inner : List Char) : List Char := Char.ofNat 123 :: inner ++ [Char.ofNat 125]

/-- A mode, with its operands in braces. -/
def modeText : Mode → List Char
  | .standard f => "Standard".toList ++ braces (decText f)
  | .fast f d => "Fast".toList ++ braces (commaText [decText f, dutyText d])

/-- A call with its operands. -/
def callText (name : String) (operands : List (List Char)) : List Char :=
  name.toList ++ "(".toList ++ commaText operands ++ ")".toList

/-- The textual form of a command; nothing else has one. The form says nothing of the pin tokens (R246). -/
def commandText : Instr → Option (List Char)
  | .new m clk _ => some (callText "new" [modeText m, decText clk])
  | .read a n => some (callText "read" [hexText a, decText n])
  | .write a bs => some (callText "write" [hexText a, bytesText bs])
  | .writeRead a bs n => some (callText "write_read" [hexText a, bytesText bs, decText n])
  | .transaction a ops => some (callText "transaction" [hexText a, listText (ops.map Operation.text)])
  | .release => some (callText "release" [])
  | _ => none

end Sys2Proof.Machine
end

