-- ==== Sys2Proof/Tests/Slice0.lean ====
section
/-! SUPPORT. The tests: the smoke of WellFormed, the decoding of words written out from the spec, single steps of the
vectors of 95_test_vectors.md, and for every statement with hypotheses a state and operands that meet them. -/

open Sys2Proof Sys2Proof.Machine

namespace Sys2Proof.Tests

/-! ## Helpers -/

/-- The next state of an outcome. -/
def nextOf : Ans → Option State
  | .next s => some s
  | .fault _ => none
  | .refused _ => none

/-- The refusal of an outcome. -/
def refusalIn : Ans → Option Refusal
  | .refused r => some r
  | .next _ => none
  | .fault _ => none

/-- The fault of an outcome. -/
def faultIn : Ans → Option Fault
  | .fault f => some f
  | .next _ => none
  | .refused _ => none

/-- The block in a bus command `TRANSACTION(0x50, ops)` at a control point, with a prompt environment. -/
def busAt (p : Point) (ops : List Operation) (k i : Nat) (d : Dir) : State :=
  { State.reset with
    handle := .bound, cfg := ⟨.standard 100000, 8000000, false⟩, cmd := .transaction, addr := 0x50, ops := ops
    ctl := p, txn := ⟨d, 0x50, false⟩, opIdx := k, byteIdx := i, dir := d
    env := [promptMove 0x11, promptMove 0x22] }

/-- The same with an answer of the status register. -/
def busSees (w : Word) (p : Point) (ops : List Operation) (k i : Nat) (d : Dir) : State :=
  { busAt p ops k i d with regs := { Controller.zero with sts := unpackStatus w } }

/-- The block at rest, its handle bound. -/
def bound : State := busAt .rest [] 0 0 .write

/-- A block at rest, its handle bound, with a command on its streams. -/
def holding (c : Instr) : State := { bound with cmdIn := encodeWords c, wdata := encodeBytes c }

/-- What a test looks at: the control point, the events, the result. -/
def seen (a : Ans) : Option (Point × List Event × Option Result) := (nextOf a).map fun t => (t.ctl, t.hist, t.result)

/-! ## WellFormed: an ill-formed term for each check, which the check refuses -/

theorem test_opcKnown_refuses_opcode_0 : (Instr.reservedOpc0 0x050).failing = some .opcKnown := by decide
theorem test_opcKnown_refuses_opcode_7 : WellFormed (.reservedOpc7 0x050) = false := by decide
theorem test_addr7_refuses_0x80 : (Instr.write 0x80 [0xAB]).failing = some .addr7 := by decide
theorem test_addr7_refuses_0xFF_in_transaction : WellFormed (.transaction 0xFF []) = false := by decide
theorem test_addr7_passes_0x7F : WellFormed (.read 0x7F 0) = true := by decide
theorem test_freqPos_refuses_0 : (Instr.new (.fast 0 .duty2to1) 36000000 false).failing = some .freqPos := by decide
theorem test_freqPos_passes_1 : WellFormed (.new (.standard 1) 0 false) = true := by decide
theorem test_modeZero_refuses_standard_with_duty :
    (Instr.modeWord .standard .duty16to9 false).failing = some .modeZero := by decide
theorem test_fits_bounds : Fits (.read 0x50 32767) = true ∧ Fits (.read 0x50 32768) = false ∧
    Fits (.new (.standard 4294967295) 0 false) = true ∧ Fits (.new (.standard 4294967296) 0 false) = false := by decide

/-! ## Decoding: words written out from the spec (95_test_vectors.md section 2; R24, R92 to R100, R104) -/

theorem test_decode_new : -- K1 and K3
    decodeCommand [0x1000, 0x0000, 0x86A0, 0x0001, 0x1200, 0x007A] [] = .done (.new (.standard 100000) 8000000 false) [] [] ∧
    decodeCommand [0x1000, 0xA000, 0x1A80, 0x0006, 0x5100, 0x0225] [] =
      .done (.new (.fast 400000 .duty2to1) 36000000 true) [] [] := by decide

theorem test_decode_read : -- K4 and K5
    decodeCommand [0x2050, 0x8002] [] = .done (.read 0x50 2) [] [] ∧
    decodeCommand [0x2050, 0x8000] [] = .done (.read 0x50 0) [] [] := by decide

theorem test_decode_write : -- K6 and K7, with words and bytes left over
    decodeCommand [0x3050, 0x0001, 0x6000] [0xAB, 0xCD] = .done (.write 0x50 [0xAB]) [0x6000] [0xCD] ∧
    decodeCommand [0x3050, 0x0000] [] = .done (.write 0x50 []) [] [] := by decide

theorem test_decode_writeRead : -- K8
    decodeCommand [0x4068, 0x0001, 0x8001] [0x75] = .done (.writeRead 0x68 [0x75] 1) [] [] := by decide

theorem test_decode_transaction : -- K9, K10, K11, and the accepted `5050 0002 8002 8003`
    decodeCommand [0x5068, 0x0002, 0x0001, 0x8001] [0x75] = .done (.transaction 0x68 [.write [0x75], .read 1]) [] [] ∧
    decodeCommand [0x503C, 0x0002, 0x0001, 0x0002] [0x00, 0x10, 0x20] =
      .done (.transaction 0x3C [.write [0x00], .write [0x10, 0x20]]) [] [] ∧
    decodeCommand [0x5050, 0x0000] [] = .done (.transaction 0x50 []) [] [] ∧
    decodeCommand [0x5050, 0x0002, 0x8002, 0x8003] [] = .done (.transaction 0x50 [.read 2, .read 3]) [] [] := by decide

theorem test_decode_release : decodeCommand [0x6000] [] = .done .release [] [] := by decide -- K13

theorem test_decode_reserved_opcodes : -- X1, X2 and R100
    decodeCommand [0x0050] [] = .done (.reservedOpc0 0x050) [] [] ∧
    decodeCommand [0x7050] [] = .done (.reservedOpc7 0x050) [] [] ∧
    decodeCommand [0x8000] [] = .done (.reservedOpc8 0x000) [] [] ∧
    decodeCommand [0x9FFF] [] = .done (.reservedOpc9 0xFFF) [] [] ∧
    decodeCommand [0xA001] [] = .done (.reservedOpcA 0x001) [] [] ∧
    decodeCommand [0xB800] [] = .done (.reservedOpcB 0x800) [] [] ∧
    decodeCommand [0xC0DE] [] = .done (.reservedOpcC 0x0DE) [] [] ∧
    decodeCommand [0xDEAD] [] = .done (.reservedOpcD 0xEAD) [] [] ∧
    decodeCommand [0xE000] [] = .done (.reservedOpcE 0x000) [] [] ∧
    decodeCommand [0xFFFF] [] = .done (.reservedOpcF 0xFFF) [] [] := by decide

theorem test_decode_refuses : -- X3 to X11
    decodeCommand [0x3150, 0x0001] [0xAB] = .refused .hdrZero ∧
    decodeCommand [0x1001, 0x0000, 0x86A0, 0x0001, 0x1200, 0x007A] [] = .refused .hdrZero ∧
    decodeCommand [0x3080, 0x0001] [0xAB] = .refused .addr7 ∧
    decodeCommand [0x2050, 0x0002] [] = .refused .dirFits ∧
    decodeCommand [0x3050, 0x8001] [] = .refused .dirFits ∧
    decodeCommand [0x4068, 0x8001, 0x0001] [] = .refused .dirFits ∧
    decodeCommand [0x1000, 0x4000, 0x86A0, 0x0001, 0x1200, 0x007A] [] = .refused .modeZero ∧
    decodeCommand [0x1000, 0x0001, 0x86A0, 0x0001, 0x1200, 0x007A] [] = .refused .modeZero ∧
    decodeCommand [0x1000, 0x0000, 0x0000, 0x0000, 0x1200, 0x007A] [] = .refused .freqPos := by decide

theorem test_decode_accepts_input_clock_0 : -- R103
    decodeCommand [0x1000, 0x0000, 0x86A0, 0x0001, 0x0000, 0x0000] [] = .done (.new (.standard 100000) 0 false) [] [] := by
  decide

theorem test_decode_waits_for_words_and_bytes :
    decodeCommand [] [] = .incomplete ∧ decodeCommand [0x2050] [] = .incomplete ∧
    decodeCommand [0x3050, 0x0002] [0xAB] = .incomplete ∧ decodeCommand [0x5050, 0x0001] [] = .incomplete := by decide

theorem test_decode_operand_words :
    decode .m (.stream [0xC000] []) = .done (.modeWord .fast .duty16to9 false) [] [] ∧
    decode .m (.stream [0x4000] []) = .refused .modeZero ∧
    decode .n (.stream [0x0004] []) = .done (.countWord 4) [] [] ∧
    decode .d (.stream [0x7FFF] []) = .done (.opWrite 0x7FFF) [] [] ∧
    decode .d (.stream [0x8002] []) = .done (.opRead 2) [] [] := by decide

theorem test_decode_address_bytes : -- A1, A4, A6
    decode .w8 (.byte 0x00) = .done (.addrByteW 0x00) [] [] ∧ decode .w8 (.byte 0xA0) = .done (.addrByteW 0x50) [] [] ∧
    decode .w8 (.byte 0xA1) = .done (.addrByteR 0x50) [] [] ∧ decode .w8 (.byte 0xFF) = .done (.addrByteR 0x7F) [] [] := by
  decide

theorem test_decode_result_bytes : -- R99
    [0x00, 0x80, 0x90, 0x91, 0x92, 0xA0, 0xB0, 0xC0, 0xD0].map decodeResult =
      [some .resOk, some .resErrOverrun, some .resErrNoackAddress, some .resErrNoackData, some .resErrNoackUnknown,
       some .resErrTimeout, some .resErrBus, some .resErrCrc, some .resErrArbitrationLoss] ∧
    decode .r8 (.byte 0x81) = .refused .resultKnown := by decide

theorem test_decode_control_points_00_to_0F : -- R24
    [0x00, 0x01, 0x02, 0x03, 0x04, 0x05, 0x06, 0x07, 0x08, 0x09, 0x0A, 0x0B, 0x0C, 0x0D, 0x0E, 0x0F].map decodePoint =
      [.ctlRest, .ctlNewEnable, .ctlNewReset, .ctlNewApply, .ctlIdlePoll, .ctlIdleClear, .ctlIdleCond, .ctlSreqAckEn,
       .ctlSreqStart, .ctlSreqPoll, .ctlSreqClear, .ctlStartedPoll, .ctlStartedClear, .ctlStartedCond, .ctlAddrWrite,
       .ctlAddrPoll] := by decide

theorem test_decode_control_points_10_to_1F : -- R24
    [0x10, 0x11, 0x12, 0x13, 0x14, 0x15, 0x16, 0x17, 0x18, 0x19, 0x1A, 0x1B, 0x1C, 0x1D, 0x1E, 0x1F].map decodePoint =
      [.ctlAddrClear, .ctlTxePoll, .ctlTxeClear, .ctlTxWrite, .ctlTxcPoll, .ctlTxcClear, .ctlRxPoll, .ctlRxClear,
       .ctlRxRead, .ctlArmLast, .ctlGenStop, .ctlAddrAckclr, .ctlReserved1C, .ctlReserved1D, .ctlReserved1E,
       .ctlReserved1F] := by decide

theorem test_decode_micro_operations : -- R104
    Instr.pollErrors .idle ∈ decodeUop 0x04 ∧ .waitStopIdle ∈ decodeUop 0x04 ∧ .addressPhase ∈ decodeUop 0x04 ∧
    decodeUop 0x07 = [.setAck] ∧ decodeUop 0x08 = [.genStart] ∧ decodeUop 0x19 = [.uopArmLast] ∧
    decodeUop 0x1A = [.uopGenStop] ∧ .sendByte ∈ decodeUop 0x11 ∧ .writeBytes ∈ decodeUop 0x11 ∧
    .writeWoPrepare ∈ decodeUop 0x11 ∧ .recvByte ∈ decodeUop 0x16 ∧ .readBytes ∈ decodeUop 0x16 ∧
    .readWoPrepare ∈ decodeUop 0x16 ∧ Instr.pollErrors .started ∈ decodeUop 0x0B ∧
    decode .uop (.code 0x00) = .refused .uopKnown := by decide

/-! ## The host's view -/

theorem test_tableWord_rows : decodeTableWord 16 0x6000 = some .release ∧ decodeTableWord 16 0x3050 = some (.write 0x50 []) ∧
    decodeTableWord 16 0x5050 = some (.transaction 0x50 []) ∧ decodeTableWord 8 0x1A = some .ctlGenStop ∧
    decodeTableWord 8 0xA1 = some (.addrByteR 0x50) ∧ decodeTableWord 8 0x90 = some .resErrNoackAddress ∧
    decodeTableWord 16 0x1000 = none ∧ decodeTableWord 16 0x2050 = none := by decide

theorem test_fetchWord_runs_release :
    (nextOf (step (State.reset.withFetchWord 16 0x6000))).map (fun t => (t.handle, t.result)) =
      some (.unbound, some .ok) := by decide

theorem test_fetchWord_runs_tx_write :
    (nextOf (step (State.reset.withFetchWord 8 0x13))).map (fun t => (t.ctl, t.hist)) =
      some (.txcPoll, [.bufRd 0 0 0, .wrData 0]) := by decide

theorem test_fetchWord_writes_the_address_byte :
    (nextOf (step (State.reset.withFetchWord 8 0xA1))).map (·.hist) = some [.wrData 0xA1] := by decide

theorem test_fetchWord_of_a_new_header_is_refused :
    refusalIn (step (State.reset.withFetchWord 16 0x1000)) = some .freqPos := by decide

/-! ## The textual form (R105) -/

theorem test_text_of_commands : -- K4, K8, K12, K13
    commandText (.read 0x50 2) = some "read(0x50, 2)".toList ∧
    commandText (.writeRead 0x68 [0x75] 1) = some "write_read(0x68, [0x75], 1)".toList ∧
    commandText (.transaction 0x50 [.write [0x01], .read 1, .read 2, .write []]) =
      some "transaction(0x50, [W[0x01], R(1), R(2), W[]])".toList ∧
    commandText .release = some "release()".toList ∧ commandText .ctlRest = none := by decide

theorem test_text_of_new : -- K2
    commandText (.new (.fast 400000 .duty16to9) 36000000 false) =
      some ("new(Fast".toList ++ [Char.ofNat 123] ++ "400000, 16:9".toList ++ [Char.ofNat 125] ++ ", 36000000)".toList) := by
  decide

/-! ## Single steps: commands (T5, T6, T11, V15; X12 to X15) -/

theorem test_step_new_is_accepted :
    (nextOf (step { State.reset with cmdIn := [0x1000, 0x0000, 0x86A0, 0x0001, 0x1200, 0x007A], env := [promptMove 0] })).map
      (fun t => (t.ctl, t.hist, t.cfg)) =
      some (.newEnable, [.cmd (.new (.standard 100000) 8000000 false)], ⟨.standard 100000, 8000000, false⟩) := by decide

theorem test_step_empty_transaction :
    seen (step (holding (.transaction 0x50 []))) =
      some (.rest, [.cmd (.transaction 0x50 []), .res .ok], some .ok) := by decide

theorem test_step_empty_read :
    (nextOf (step (holding (.read 0x50 0)))).map (fun t => (t.ctl, t.hist, t.resOut, t.txn)) =
      some (.rest, [.cmd (.read 0x50 0), .res (.err .overrun)], [0x80], ⟨.read, 0x50, false⟩) := by decide

theorem test_step_transaction_of_an_empty_read_starts :
    seen (step (holding (.transaction 0x50 [.read 0]))) =
      some (.idlePoll, [.cmd (.transaction 0x50 [.read 0])], none) := by decide

theorem test_step_release :
    (nextOf (step (holding .release))).map (fun t => (t.handle, t.resOut)) = some (.unbound, [0x00]) := by decide

theorem test_exec_handle_fits :
    refusalIn (exec (.write 0x50 [0xAB]) State.reset) = some .handleFits ∧
    refusalIn (exec .release State.reset) = some .handleFits ∧
    refusalIn (exec (.new (.standard 100000) 8000000 false) bound) = some .handleFits := by decide

theorem test_exec_at_rest : refusalIn (exec (.write 0x50 [0xAB]) (busAt .idlePoll [.read 1] 0 0 .read)) =
    some .atRest := by decide

/-! ## Single steps: control points (T1, T2, V1 to V28) -/

/-- The operation of T1. -/
def w1 : List Operation := [.write [0xAB]]
/-- The operation of T2. -/
def r2 : List Operation := [.read 2]

theorem test_new_enable : seen (step { State.reset with ctl := .newEnable }) =
    some (.newReset, [.collabClockEnable], none) := by decide

theorem test_new_apply_binds : (nextOf (step { State.reset with ctl := .newApply })).map
    (fun t => (t.handle, t.ctl, t.result, t.resOut)) = some (.bound, .rest, some .ok, [0x00]) := by decide

theorem test_idle_poll_clean : seen (step (busSees 0x0000 .idlePoll w1 0 0 .write)) =
    some (.idleCond, [.rdSts (unpackStatus 0x0000)], none) := by decide

theorem test_idle_poll_stale_flags : -- V10: the acknowledge failure comes before the bus error
    (nextOf (step (busSees 0x0500 .idlePoll w1 0 0 .write))).map (fun t => (t.ctl, t.pendFlag)) =
      some (.idleClear, .ackfail) := by decide

theorem test_idle_clear_tags_unknown : -- V10
    seen (step { busSees 0x0500 .idleClear w1 0 0 .write with pendFlag := .ackfail }) =
      some (.rest, [.clr .ackfail, .res (.err (.noAcknowledge .unknown))], some (.err (.noAcknowledge .unknown))) := by
  decide

theorem test_idle_cond_write : seen (step (busAt .idleCond w1 0 0 .write)) =
    some (.sreqStart, [.rdStopPending false], none) := by decide

theorem test_idle_cond_read : seen (step (busAt .idleCond r2 0 0 .read)) =
    some (.sreqAckEn, [.rdStopPending false], none) := by decide

theorem test_sreq_ack_en : seen (step (busAt .sreqAckEn r2 0 0 .read)) =
    some (.sreqStart, [.modCtrl { ackEn := some true }], none) := by decide

theorem test_sreq_start : seen (step (busAt .sreqStart w1 0 0 .write)) =
    some (.sreqPoll, [.modCtrl { startReq := some true }], none) := by decide

theorem test_sreq_poll_exits : seen (step (busSees 0x0001 .sreqPoll w1 0 0 .write)) =
    some (.startedPoll, [.rdSts (unpackStatus 0x0001)], none) := by decide

theorem test_sreq_poll_loops : -- V19
    (nextOf (step (busSees 0x0080 .sreqPoll w1 0 0 .write))).map (·.ctl) = some .sreqPoll := by decide

theorem test_sreq_clear_tests_the_snapshot_before_the_clear : -- V7: START_DONE stood beside the bus error
    (nextOf (step { busSees 0x0101 .sreqClear w1 0 0 .write with
      pendFlag := .buserr, snap := unpackStatus 0x0101 })).map (fun t => (t.ctl, t.hist)) =
      some (.startedPoll, [.clr .buserr]) := by decide

theorem test_sreq_clear_goes_on_waiting : -- V8
    (nextOf (step { busSees 0x0100 .sreqClear w1 0 0 .write with
      pendFlag := .buserr, snap := unpackStatus 0x0100 })).map (·.ctl) = some .sreqPoll := by decide

theorem test_started_poll : (nextOf (step (busSees 0x0000 .startedPoll w1 0 0 .write))).map (·.ctl) =
    some .startedCond := by decide

theorem test_started_clear : -- V12
    (nextOf (step { busSees 0x0200 .startedClear w1 0 0 .write with pendFlag := .arlost })).map
      (fun t => (t.ctl, t.result)) = some (.rest, some (.err .arbitrationLoss)) := by decide

theorem test_started_cond : -- V18: only MASTER = 1, BUSY = 0 leaves the wait
    [0x0000, 0x0002, 0x0003, 0x0001].map (fun w => (nextOf (step { busAt .startedCond w1 0 0 .write with
      regs := { Controller.zero with sts2 := unpackStatus2 w } })).map (·.ctl)) =
      [some .startedPoll, some .startedPoll, some .startedPoll, some .addrWrite] := by decide

theorem test_addr_write_read : seen (step (busAt .addrWrite r2 0 0 .read)) =
    some (.addrPoll, [.wrData 0xA1], none) := by decide

theorem test_addr_poll_fault_wins : -- V9
    (nextOf (step (busSees 0x0402 .addrPoll w1 0 0 .write))).map (fun t => (t.ctl, t.pendFlag)) =
      some (.addrClear, .ackfail) := by decide

theorem test_addr_poll_ready : (nextOf (step (busSees 0x0002 .addrPoll w1 0 0 .write))).map (·.ctl) =
    some .txePoll := by decide

theorem test_addr_clear_tags_address : -- V1
    (nextOf (step { busSees 0x0400 .addrClear w1 0 0 .write with pendFlag := .ackfail })).map (·.resOut) =
      some [0x90] := by decide

theorem test_addr_ackclr : -- V28
    (nextOf (step { busAt .addrAckclr w1 0 0 .write with
      params := ⟨true, true⟩, regs := { Controller.zero with sts2 := ⟨true, false⟩ } })).map (fun t => (t.ctl, t.hist)) =
      some (.txePoll, [.rdSts2 ⟨true, false⟩]) := by decide

theorem test_txe_clear_keeps_crc : -- V14
    (nextOf (step { busSees 0x1000 .txeClear w1 0 0 .write with pendFlag := .pec })).map (·.resOut) = some [0xC0] := by
  decide

theorem test_txe_poll : (nextOf (step (busSees 0x0080 .txePoll w1 0 0 .write))).map (·.ctl) = some .txWrite := by decide

theorem test_tx_write : seen (step (busAt .txWrite w1 0 0 .write)) =
    some (.txcPoll, [.bufRd 0 0 0xAB, .wrData 0xAB], none) := by decide

theorem test_txc_poll_ends_the_slice :
    (nextOf (step (busSees 0x0004 .txcPoll w1 0 0 .write))).map (fun t => (t.ctl, t.byteIdx)) = some (.genStop, 1) := by
  decide

theorem test_txc_poll_turns_the_bus : -- T3 steps 11 and 12
    (nextOf (step (busSees 0x0004 .txcPoll [.write [0x75], .read 1] 0 0 .write))).map
      (fun t => (t.ctl, t.opIdx, t.byteIdx, t.dir)) = some (.idlePoll, 1, 0, .read) := by decide

theorem test_txc_clear_timeout_first : -- V6: the two other flags stay
    (nextOf (exec .ctlTxcClear { busSees 0x4500 .txcClear w1 0 0 .write with pendFlag := .timeout })).map
      (fun t => (t.result, t.regs.sts)) = some (some (.err .timeout), unpackStatus 0x0500) := by decide

theorem test_rx_poll : (nextOf (step (busSees 0x0040 .rxPoll r2 0 0 .read))).map (·.ctl) = some .rxRead := by decide

theorem test_rx_clear_tags_data : -- V5
    (nextOf (step { busSees 0x0400 .rxClear r2 0 0 .read with pendFlag := .ackfail })).map (·.resOut) = some [0x91] := by
  decide

theorem test_rx_read_stores : -- T2 steps 11 and 12
    (nextOf (step { busAt .rxRead r2 0 0 .read with regs := { Controller.zero with rxData := 0x11 } })).map
      (fun t => (t.ctl, t.hist, t.rdata, bufferByte t 0 0)) =
      some (.armLast, [.rdData 0x11, .bufWr 0 0 0x11], [0x11], some 0x11) := by decide

theorem test_rx_read_last_byte_ends : -- T2 step 14
    (nextOf (step (busAt .rxRead r2 0 1 .read))).map (fun t => (t.ctl, t.result)) = some (.rest, some .ok) := by decide

theorem test_arm_last : seen (step (busAt .armLast r2 0 1 .read)) =
    some (.rxPoll, [.modCtrl { ackEn := some false, stopReq := some true }], none) := by decide

theorem test_gen_stop : seen (step (busAt .genStop w1 0 1 .write)) =
    some (.rest, [.modCtrl { stopReq := some true }, .res .ok], some .ok) := by decide

theorem test_dispatch_empty_final_read : -- V15
    (nextOf (step (busSees 0x0002 .addrPoll [.read 0] 0 0 .read))).map (·.resOut) = some [0x80] := by decide

theorem test_dispatch_passes_over_an_empty_write : -- V23
    (nextOf (step (busSees 0x0002 .addrPoll [.write [], .read 2] 0 0 .write))).map (fun t => (t.ctl, t.dir)) =
      some (.idlePoll, .read) := by decide

theorem test_no_timeout_flag : -- V27
    (nextOf (step { busSees 0x4000 .idlePoll w1 0 0 .write with params := ⟨false, false⟩ })).map (·.ctl) =
      some .idleCond := by decide

/-! ## Single steps: micro-operations, operand words, result rows -/

theorem test_poll_errors_is_the_monitor : -- M8: read, then clear, and the caller goes on
    (nextOf (exec (.pollErrors .txe) (busSees 0x0100 .txePoll w1 0 0 .write))).map (fun t => (t.ctl, t.pendFlag)) =
      some (.txeClear, .buserr) ∧
    (nextOf (exec (.pollErrors .txe) { busSees 0x0100 .txeClear w1 0 0 .write with pendFlag := .buserr })).map
      (fun t => (t.ctl, t.hist)) = some (.txePoll, [.clr .buserr]) := by decide

theorem test_micro_operations_enter :
    [Instr.waitStopIdle, .addressPhase].map (fun i => (nextOf (exec i (busSees 0x0000 .rest w1 0 0 .write))).map (·.ctl)) =
      [some .idleCond, some .idleCond] ∧
    (nextOf (exec .sendByte (busSees 0x0080 .txePoll w1 0 0 .write))).map (·.ctl) = some .txWrite ∧
    (nextOf (exec .recvByte (busSees 0x0040 .rxPoll r2 0 0 .read))).map (·.ctl) = some .rxRead := by decide

theorem test_data_phases :
    (nextOf (exec .writeBytes (busAt .addrPoll [.write [], .read 1] 0 0 .write))).map (·.ctl) = some .idlePoll ∧
    (nextOf (exec .readBytes (busSees 0x0040 .rxPoll [.read 1, .write []] 0 0 .read))).map (·.ctl) = some .rxRead ∧
    (nextOf (exec .writeWoPrepare (busAt .addrPoll [.write []] 0 0 .write))).map (·.result) = some (some .ok) ∧
    (nextOf (exec .readWoPrepare (busAt .addrPoll [.read 0] 0 0 .read))).map (·.result) =
      some (some (.err .overrun)) ∧
    -- R190: WRITE_BYTES at a final Write, then GEN_STOP
    (nextOf (exec .writeBytes (busAt .addrPoll [.write []] 0 0 .write))).map (·.ctl) = some .genStop ∧
    -- at an operation of the other kind: the entry control point of the opcode table, 0x16
    (nextOf (exec .readWoPrepare (busSees 0x0040 .addrPoll w1 0 0 .write))).map (·.ctl) = some .rxRead := by decide

theorem test_operand_words_complete_a_read :
    (nextOf (exec (.opRead 2) { bound with cmdIn := [0x2050] })).map (fun t => (t.ctl, t.cmdIn, t.hist)) =
      some (.idlePoll, [], [.cmd (.read 0x50 2)]) := by decide

theorem test_mode_word_arrives :
    (nextOf (exec (.modeWord .fast .duty16to9 false) { State.reset with cmdIn := [0x1000] })).map (·.cmdIn) =
      some [0x1000, 0xC000] := by decide

theorem test_result_rows :
    (nextOf (exec .resOk bound)).map (·.resOut) = some [0x00] ∧
    (nextOf (exec .resErrArbitrationLoss bound)).map (·.resOut) = some [0xD0] ∧
    refusalIn (exec .resErrBus bound) = some .neverProduced ∧
    faultIn (step { bound with ctl := .reserved1C }) = some .reservedPoint ∧
    faultIn (step { bound with ctl := .addrAckclr }) = some .reservedPoint := by decide

theorem test_memory_stays_canonical :
    memWrite [(2, 0xAA), (5, 0xBB)] 3 0xCC = [(2, 0xAA), (3, 0xCC), (5, 0xBB)] ∧
    memWrite [(2, 0xAA), (5, 0xBB)] 5 0xCC = [(2, 0xAA), (5, 0xCC)] := by decide

/-! ## Witnesses: for every statement with hypotheses, a concrete state and operands that meet them, for each clause -/

/-- A state of a bus command with the invariant, at any point but a `*_CLEAR` one and ADDR_ACKCLR. -/
theorem inv_busAt {p : Point} {ops : List Operation} {k i : Nat} {op : Operation} (hop : ops[k]? = some op)
    (hp : PlaceOk (busAt p ops k i op.dir) op) (hr : isReserved p = false) (hn : p ∉ newPoints)
    (hc : ∀ w, p ≠ clearPointOf w) (ha : p ≠ .addrAckclr) (hist : List Event) :
    Inv { busAt p ops k i op.dir with hist := hist } where
  memory := List.Pairwise.nil
  named := hr
  ackParam := fun h => absurd h ha
  observed := fun w h => absurd h (hc w)
  building := fun h => absurd h hn
  bus := fun _ => ⟨rfl, rfl, rfl, rfl, rfl, show addrCheck 0x50 = none by decide, op, hop, rfl, hp⟩
  frequency := fun _ => show 0 < 100000 by decide
  noBusError := show none ≠ some (Result.err .bus) by decide

/-- The block in ADDR_CLEAR after it has seen an acknowledge failure (V1). -/
def clearing : State :=
  { busAt .addrClear w1 0 0 .write with
    snap := unpackStatus 0x0400, pendFlag := .ackfail
    hist := [.cmd (.write 0x50 [0xAB]), .rdSts (unpackStatus 0x0400)] }

theorem inv_clearing : Inv clearing where
  memory := List.Pairwise.nil
  named := rfl
  ackParam := by decide
  observed := fun w h => ⟨rfl, rfl⟩
  building := by decide
  bus := fun _ => ⟨rfl, rfl, rfl, rfl, rfl, rfl, .write [0xAB], rfl, rfl, by unfold PlaceOk; decide⟩
  frequency := fun _ => by decide
  noBusError := by decide

theorem inv_bound : Inv bound where
  memory := List.Pairwise.nil
  named := rfl
  ackParam := by decide
  observed := fun w h => by cases w <;> cases h
  building := by decide
  bus := fun h => absurd rfl h.1
  frequency := fun _ => by decide
  noBusError := by decide

/-- The block in the points of NEW. -/
def buildingAt (p : Point) : State :=
  { State.reset with ctl := p, cfg := ⟨.standard 1, 0, false⟩, hist := [.cmd (.new (.standard 1) 0 false)] }

theorem inv_building : Inv (buildingAt .newEnable) where
  memory := List.Pairwise.nil
  named := rfl
  ackParam := by decide
  observed := fun w h => by cases w <;> cases h
  building := fun _ => ⟨rfl, rfl, rfl⟩
  bus := fun h => absurd (by decide) h.2
  frequency := fun _ => by decide
  noBusError := by decide

/-- The block in ADDR_ACKCLR, with its parameter (R166). -/
def ackClearing : State := { busAt .addrAckclr w1 0 0 .write with params := ⟨true, true⟩ }

theorem inv_ackClearing : Inv ackClearing where
  memory := List.Pairwise.nil
  named := rfl
  ackParam := fun _ => rfl
  observed := fun w h => by cases w <;> cases h
  building := by decide
  bus := fun _ => ⟨rfl, rfl, rfl, rfl, rfl, rfl, .write [0xAB], rfl, rfl, by unfold PlaceOk; decide⟩
  frequency := fun _ => by decide
  noBusError := by decide

theorem inv_txWrite (hist : List Event) : Inv { busAt .txWrite w1 0 0 .write with hist := hist } :=
  inv_busAt (op := .write [0xAB]) rfl (by unfold PlaceOk; decide) rfl (by decide) (by intro w; cases w <;> decide) (by decide) _

theorem inv_rxRead (hist : List Event) : Inv { busAt .rxRead r2 0 1 .read with hist := hist } :=
  inv_busAt (op := .read 2) rfl (by unfold PlaceOk; decide) rfl (by decide) (by intro w; cases w <;> decide) (by decide) _

theorem inv_armLast (hist : List Event) : Inv { busAt .armLast r2 0 1 .read with hist := hist } :=
  inv_busAt (op := .read 2) rfl (by unfold PlaceOk; decide) rfl (by decide) (by intro w; cases w <;> decide) (by decide) _

theorem inv_genStop (hist : List Event) : Inv { busAt .genStop w1 0 1 .write with hist := hist } :=
  inv_busAt (op := .write [0xAB]) rfl (by unfold PlaceOk; decide) rfl (by decide) (by intro w; cases w <;> decide) (by decide) _

theorem inv_idlePoll (hist : List Event) : Inv { busAt .idlePoll r2 0 0 .read with hist := hist } :=
  inv_busAt (op := .read 2) rfl (by unfold PlaceOk; decide) rfl (by decide) (by intro w; cases w <;> decide) (by decide) _

theorem inv_sreqAckEn (hist : List Event) : Inv { busAt .sreqAckEn r2 0 0 .read with hist := hist } :=
  inv_busAt (op := .read 2) rfl (by unfold PlaceOk; decide) rfl (by decide) (by intro w; cases w <;> decide) (by decide) _

theorem inv_sreqStart (hist : List Event) : Inv { busAt .sreqStart r2 0 0 .read with hist := hist } :=
  inv_busAt (op := .read 2) rfl (by unfold PlaceOk; decide) rfl (by decide) (by intro w; cases w <;> decide) (by decide) _

/-- Not final: the sequence goes on after the operation. -/
theorem inv_txWrite_more : Inv { busAt .txWrite [.write [0xAB], .read 0] 0 0 .write with hist := [] } :=
  inv_busAt (op := .write [0xAB]) rfl (by unfold PlaceOk; decide) rfl (by decide) (by intro w; cases w <;> decide) (by decide) _

theorem inv_rxRead_more : Inv { busAt .rxRead [.read 1, .write []] 0 0 .read with hist := [] } :=
  inv_busAt (op := .read 1) rfl (by unfold PlaceOk; decide) rfl (by decide) (by intro w; cases w <;> decide) (by decide) _

theorem witness_DecodeUndoesEncodeOnCommands :
    (Instr.read 0x7F 32767).format = .h ∧ WellFormed (.read 0x7F 32767) = true ∧ Fits (.read 0x7F 32767) = true ∧
    (Instr.reservedOpc0 0xFFF).format = .h ∧ (Instr.reservedOpc0 0xFFF).failing = some .opcKnown ∧
    Fits (.reservedOpc0 0xFFF) = true := by decide

theorem witness_EncodeUndoesDecodeOnCommands :
    decodeCommand [0x5050, 0x0002, 0x8002, 0x8003, 0x6000] [0xAA] =
      .done (.transaction 0x50 [.read 2, .read 3]) [0x6000] [0xAA] := by decide

theorem witness_DecodeUndoesEncodeOnOtherFormats :
    (Instr.opWrite 0x7FFF).format ≠ .h ∧ WellFormed (.opWrite 0x7FFF) = true ∧ (Instr.opWrite 0x7FFF).format ≠ .uop ∧
    (Instr.pollErrors .rx).format ≠ .h ∧ WellFormed (.pollErrors .rx) = true ∧ (Instr.pollErrors .rx).format = .uop := by
  decide

theorem witness_AddressByteIsTwiceTheAddressPlusDirection : (0x7F#8).toNat < 128 ∧ (0x00#8).toNat < 128 := by decide

theorem witness_StepRunsTheFetchedInstruction :
    (holding .release).ctl = .rest ∧ decodeCommand (holding .release).cmdIn (holding .release).wdata = .done .release [] [] ∧
    bound.ctl = .rest ∧ decodeCommand bound.cmdIn bound.wdata = .incomplete ∧
    decodeCommand [0x3080] [] = .refused .addr7 ∧ clearing.ctl ≠ .rest := by decide

theorem witness_EnvironmentMovesOnlyTheController : bound.handle = .bound ∧ (buildingAt .newReset).ctl ≠ .rest := by decide

theorem witness_NewLatchesTheModeAndBuilds :
    0 < (Mode.standard 1).frequency ∧ State.reset.handle = .unbound ∧ State.reset.ctl = .rest := by decide

theorem witness_ReleaseUnbindsWithNoAccess : bound.handle = .bound ∧ bound.ctl = .rest := by decide

theorem witness_EmptyReadOverrunsWithNoAccess : (0x7F#8).toNat < 128 ∧ bound.handle = .bound ∧ bound.ctl = .rest := by
  decide

theorem witness_BusCommandsStartTheirTransaction :
    (0x00#8).toNat < 128 ∧ bound.handle = .bound ∧ bound.ctl = .rest ∧ 0 < 1 := by decide

theorem witness_EmptyTransactionSucceedsWithNoAccess :
    (0x50#8).toNat < 128 ∧ bound.handle = .bound ∧ bound.ctl = .rest := by decide

theorem witness_CommandsAreRefusedByName :
    (Mode.standard 0).frequency = 0 ∧ 0 < (Mode.standard 1).frequency ∧ bound.handle = .bound ∧
    (buildingAt .newEnable).handle = .unbound ∧ (buildingAt .newEnable).ctl ≠ .rest ∧ State.reset.handle = .unbound ∧
    (busAt .idlePoll w1 0 0 .write).handle = .bound ∧ (busAt .idlePoll w1 0 0 .write).ctl ≠ .rest ∧
    128 ≤ (0x80#8).toNat ∧ (0x7F#8).toNat < 128 := by decide

theorem witness_OperandWordsArriveOnTheStream :
    (0x50#8).toNat < 128 ∧ headerWord 1 0 = 0x1000 ∧ headerWord 5 0x50 = 0x5050 ∧ (1 : BitVec 16) ≠ 0 ∧
    { bound with cmdIn := [headerWord 2 0x50] }.handle = .bound ∧
    (1 : BitVec 15).toNat ≤ { bound with cmdIn := [headerWord 3 0x50], wdata := [0xAB] }.wdata.length ∧
    { bound with cmdIn := [headerWord 3 0x50] }.wdata.length < (1 : BitVec 15).toNat ∧ bound.ctl = .rest := by decide

theorem witness_OperandWordsElsewhere : -- the four shapes, and the four clauses
    modeWordBits .fast .duty2to1 true = 0xA000 ∧ dirBit .write ++ (2 : BitVec 15) = 0x0002#16 ∧
    dirBit .read ++ (2 : BitVec 15) = 0x8002#16 ∧
    (busAt .idlePoll w1 0 0 .write).ctl ≠ .rest ∧ bound.ctl = .rest ∧
    decodeCommand (bound.cmdIn ++ [0x6000]) bound.wdata = .done .release [] [] ∧
    decodeCommand ([0x1000] ++ [0xA000]) [] = .incomplete ∧ decodeCommand ([0x3050] ++ [0x8002]) [] = .refused .dirFits := by
  decide

theorem witness_IdleCondWaitsOutTheStop :
    { bound with regs := { Controller.zero with stopPending := true } }.regs.stopPending = true ∧
    (busAt .idleCond r2 0 0 .read).regs.stopPending = false ∧ (busAt .idleCond r2 0 0 .read).dir = .read ∧
    (busAt .idleCond w1 0 0 .write).dir = .write := by decide

theorem witness_StartedCondLeavesOnMasterAndFreeBus :
    (unpackStatus2 0x0001) = ⟨true, false⟩ ∧ (unpackStatus2 0x0003) ≠ ⟨true, false⟩ := by decide

theorem witness_AddressWritePutsTheAddressByteOut :
    (busAt .addrWrite w1 0 0 .write).dir = .write ∧ (busAt .addrWrite r2 0 0 .read).dir = .read := by decide

theorem witness_ClearingOneFlagLeavesTheOthers :
    FaultFlag.timeout ≠ .buserr ∧ faultBit (unpackStatus 0x0500) .timeout = false := by decide

theorem witness_PollReadsOnceAndHoldsTheFirstFault :
    firstFault (visibleStatus ⟨true, false⟩ (unpackStatus 0x4500)) = some .timeout ∧
    firstFault (visibleStatus ⟨false, false⟩ (unpackStatus 0x4000)) = none := by decide

theorem witness_WaitTestsExitOnTheirOwnFlag :
    [0x0001, 0x0000].map (fun w => (unpackStatus w).startDone) = [true, false] ∧
    [0x0002, 0x0000].map (fun w => (unpackStatus w).addrAck) = [true, false] ∧
    [0x0080, 0x0000].map (fun w => (unpackStatus w).txEmpty) = [true, false] ∧
    [0x0004, 0x0000].map (fun w => (unpackStatus w).xferDone) = [true, false] ∧
    [0x0040, 0x0000].map (fun w => (unpackStatus w).rxNotEmpty) = [true, false] ∧
    ackClearing.params.addrAckClearRead = true ∧ bound.params.addrAckClearRead = false := by decide

theorem witness_ClearAbortsOrIgnoresTheHeldFlag :
    raisedError .addr clearing.pendFlag = some (.noAcknowledge .address) ∧
    { clearing with pendFlag := .buserr }.pendFlag = .buserr := by decide

theorem witness_BusErrorAloneNeverSurfaces :
    firstFault (visibleStatus (busSees 0x0101 .sreqPoll w1 0 0 .write).params (busSees 0x0101 .sreqPoll w1 0 0 .write).regs.sts) =
      some .buserr ∧ (busSees 0x0101 .sreqPoll w1 0 0 .write).ctl = pollPointOf .sreq := by decide

theorem witness_TxWriteSendsTheCurrentByte :
    (busAt .txWrite w1 0 0 .write).ops[0]? = some (.write [0xAB]) ∧ [0xAB#8][0]? = some 0xAB#8 := by decide

theorem witness_RxReadStoresTheReceivedByte :
    (busAt .rxRead r2 0 1 .read).ops[0]? = some (.read 2) ∧ 1 < 2 := by decide

theorem witness_AccessesOutsideTheOperationStop :
    sliceByte (busAt .txWrite w1 0 1 .write) 0 1 = none ∧ sliceByte (busAt .txWrite r2 0 0 .read) 0 0 = none ∧
    inReadBuffer (busAt .rxRead r2 0 2 .read) 0 2 = false ∧ inReadBuffer (busAt .rxRead w1 0 0 .write) 0 0 = false := by
  decide

theorem witness_BufferBytesHaveTheirOwnAddresses : bufAddr 3 1 7 = bufAddr 3 1 7 := rfl

theorem witness_AckClearDiscardsItsRead :
    ackClearing.params.addrAckClearRead = true ∧ bound.params.addrAckClearRead = false := by decide

theorem witness_DispatchChoosesByPosition : -- one position for each clause, at its bounds
    w1[0]? = some (.write [0xAB]) ∧ 0 < [0xAB#8].length ∧ [0xAB#8].length ≤ 1 ∧ 0 + 1 = w1.length ∧
    [Operation.read 0][0]? = some (.read 0) ∧ r2[0]? = some (.read 2) ∧ ¬(0 + 1 = r2.length ∧ 0 + 1 = 2) ∧
    (0 + 1 = r2.length ∧ 1 + 1 = 2) ∧ (0 < 2 ∧ 2 ≤ 2) ∧
    [Operation.write [], .read 1][0 + 1]? = some (.read 1) ∧ (Operation.read 1).dir ≠ (Operation.write []).dir ∧
    (Operation.write [0x10]).dir = (Operation.write []).dir := by decide

theorem witness_ResultRowsEndTheCommand :
    (Instr.resErrCrc, Err.crc, (0xC0 : Byte)) ∈ [(Instr.resErrCrc, Err.crc, (0xC0 : Byte))] := by decide

theorem witness_MicroOperationsRunTheirOwnPoints :
    clearing.ctl = clearPointOf .addr ∧ clearing.ctl ≠ clearPointOf .idle ∧ .idleCond ∈ idlePoints ∧ .rest ∉ idlePoints ∧
    .addrAckclr ∈ addressPoints ∧ .txePoll ∉ addressPoints ∧ .txcClear ∈ sendPoints ∧ .genStop ∉ sendPoints ∧
    .rxRead ∈ recvPoints ∧ .armLast ∉ recvPoints := by decide

theorem witness_DataPhasesRunTheirOwnPoints : -- byte_idx 0, 1 and 2 are the boundaries of a slice of 1 and a buffer of 2
    currentOp (busAt .txWrite w1 0 0 .write) = some (.write [0xAB]) ∧ .txWrite ∈ sendPoints ∧ .addrPoll ∉ sendPoints ∧
    Point.genStop ∉ sendPoints ∧ 0 < [0xAB#8].length ∧ [0xAB#8].length ≤ 1 ∧
    currentOp (busAt .rxPoll r2 0 0 .read) = some (.read 2) ∧ .rxPoll ∈ recvPoints ∧ .addrPoll ∉ recvPoints ∧
    Point.armLast ∉ recvPoints ∧ currentOp (busAt .armLast r2 0 1 .read) ≠ some (.read 0) ∧
    0 + 1 < 2 ∧ 1 + 1 = 2 ∧ 2 ≤ 2 ∧ currentOp (busAt .rest [.read 0] 0 0 .read) = some (.read 0) ∧
    currentOp (busAt .rest [] 0 0 .write) = none ∧ (busAt .rest r2 0 0 .read).ctl = .rest := by decide

theorem witness_EveryPointCompletesWithOneAccess :
    Inv bound ∧ Inv clearing ∧ Inv (buildingAt .newEnable) ∧ Inv ackClearing :=
  ⟨inv_bound, inv_clearing, inv_building, inv_ackClearing⟩

theorem witness_MicroOperationsCompleteInSoundStates :
    (Inv clearing ∧ clearing.ctl = clearPointOf .addr ∧ clearing.ctl ∈ addressPoints) ∧
    (Inv (busAt .idlePoll r2 0 0 .read) ∧ (busAt .idlePoll r2 0 0 .read).ctl ∈ idlePoints) ∧
    (Inv (busAt .txWrite w1 0 0 .write) ∧ (busAt .txWrite w1 0 0 .write).ctl ∈ sendPoints) ∧
    Inv (busAt .txWrite [.write [0xAB], .read 0] 0 0 .write) ∧
    (Inv (busAt .rxRead r2 0 1 .read) ∧ (busAt .rxRead r2 0 1 .read).ctl ∈ recvPoints) ∧
    Inv (busAt .rxRead [.read 1, .write []] 0 0 .read) ∧
    Inv (busAt .armLast r2 0 1 .read) ∧ Inv (busAt .genStop w1 0 1 .write) :=
  ⟨⟨inv_clearing, rfl, by decide⟩, ⟨inv_idlePoll [], by decide⟩, ⟨inv_txWrite [], by decide⟩,
    inv_txWrite_more, ⟨inv_rxRead [], by decide⟩, inv_rxRead_more, inv_armLast [], inv_genStop []⟩

theorem witness_PointsLeaveEverythingElse : -- a point of each clause answers a next state
    [Point.newApply, .idlePoll, .addrClear, .newReset, .addrWrite, .txWrite, .rest].map
      (fun p => (nextOf (exec (pointInstr p) (busAt p w1 0 0 .write))).isSome) = List.replicate 7 true ∧
    (nextOf (exec (pointInstr .rxRead) (busAt .rxRead r2 0 0 .read))).isSome = true := by decide

theorem witness_OnlySequencerPointsWriteControl :
    Point.armLast ≠ .newReset ∧ (nextOf (exec (pointInstr .armLast) (busAt .armLast r2 0 1 .read))).isSome = true ∧
    (nextOf (exec (pointInstr .sreqStart) (busAt .sreqStart w1 0 0 .write))).isSome = true := by decide

theorem witness_CommandsTouchNoMemoryAndNoController :
    (Instr.release.format ≠ .ctl ∧ Instr.release.format ≠ .uop ∧ Instr.release.format ≠ .w8 ∧ Instr.release.format = .h) ∧
    (nextOf (exec .release bound)).isSome = true ∧ (nextOf (exec (.read 0x50 1) bound)).isSome = true ∧
    Instr.resErrCrc.format = .r8 ∧ (nextOf (exec .resErrCrc bound)).isSome = true ∧
    (Instr.countWord 0x5050).format ≠ .h ∧ encodeWords (.countWord 0x5050) = [0x5050] ∧
    (nextOf (exec (.countWord 0x5050) bound)).isSome = true ∧
    decodeCommand (bound.cmdIn ++ [0x5050]) bound.wdata = .incomplete ∧
    encodeWords (.countWord 0x6000) = [0x6000] ∧ (nextOf (exec (.countWord 0x6000) bound)).isSome = true ∧
    decodeCommand (bound.cmdIn ++ [0x6000]) bound.wdata = .done .release [] [] := by decide

theorem witness_CommandIsLatchedUntilItEnds : clearing.ctl ≠ .rest ∧ (nextOf (step clearing)).isSome = true := by decide

theorem witness_HandleIsBoundAndUnboundByTwoSteps :
    (nextOf (step (holding .release))).map (·.handle) = some .unbound ∧ (holding .release).handle = .bound ∧
    (nextOf (step (buildingAt .newApply))).map (·.handle) = some .bound ∧ (buildingAt .newApply).handle = .unbound := by
  decide

theorem witness_ErrorsOfEachControlPoint :
    seen (exec (pointInstr .addrClear) clearing) =
      some (.rest, clearing.hist ++ [.clr .ackfail, .res (.err (.noAcknowledge .address))],
        some (.err (.noAcknowledge .address))) ∧
    (nextOf (exec (pointInstr .addrPoll) (busSees 0x0002 .addrPoll [.read 0] 0 0 .read))).map (fun t => (t.ctl, t.result)) =
      some (.rest, some (.err .overrun)) := by decide

/-- A poll of a controller without the timeout flag, whose other bits show the bus-error flag (V27). -/
theorem witness_NoTimeoutWithoutTheFlag :
    NoTimeout { busSees 0x4100 .txePoll w1 0 0 .write with params := ⟨false, false⟩ } ∧
    (nextOf (step { busSees 0x4100 .txePoll w1 0 0 .write with params := ⟨false, false⟩ })).isSome = true ∧
    (nextOf (exec (pointInstr (pollPointOf .txe)) { busSees 0x4100 .txePoll w1 0 0 .write with
      params := ⟨false, false⟩ })).map (·.ctl) = some (clearPointOf .txe) :=
  ⟨⟨rfl, fun w h => by (cases w <;> cases h), by decide⟩, by decide, by decide⟩

theorem witness_EveryStepKeepsTheInvariant :
    Inv clearing ∧ (nextOf (step clearing)).isSome = true ∧ Inv (busAt .rxRead r2 0 1 .read) ∧
    (nextOf (step (busAt .rxRead r2 0 1 .read))).isSome = true :=
  ⟨inv_clearing, by decide, inv_rxRead [], by decide⟩

theorem witness_SoundStatesNeverFault : -- the clauses on a refusal, met at REST
    Inv bound ∧ refusalIn (step { bound with cmdIn := [0x3080] }) = some .addr7 ∧
    refusalIn (step { bound with cmdIn := [0x7050] }) = some .opcKnown ∧
    refusalIn (step { bound with cmdIn := [0x1000, 0x0000, 0x86A0, 0x0001, 0x1200, 0x007A] }) = some .handleFits :=
  ⟨inv_bound, by decide, by decide, by decide⟩

theorem historyOk_clearing : HistoryOk clearing.hist where
  clears := fun j f h => by
    match j with
    | 0 | 1 => cases h
    | _ + 2 => cases h
  errors := fun j e h => by
    match j with
    | 0 | 1 => cases h
    | _ + 2 => cases h
  results := fun j r e h => by
    match j with
    | 0 | 1 => cases h
    | _ + 2 => cases h
  noBus := by unfold NoBusResult; decide

theorem witness_EveryStepKeepsTheHistorySound :
    Inv clearing ∧ HistoryOk clearing.hist ∧ HistoryEnds clearing ∧ (nextOf (step clearing)).isSome = true :=
  ⟨inv_clearing, historyOk_clearing,
    fun _ h => ⟨fun hr => absurd hr (by decide), fun hr => by obtain ⟨r, rfl⟩ := hr; (cases h)⟩, by decide⟩

/-- The block before a START request, after the read of STOP_PENDING that let it go on and the acknowledge-enable. -/
def starting : State :=
  { busAt .sreqStart r2 0 0 .read with
    hist := [.cmd (.read 0x50 2), .rdStopPending false, .modCtrl { ackEn := some true }] }

theorem witness_StartsFollowAnIdleBus :
    Inv starting ∧ StartsAfterIdle starting.hist ∧ StartReady starting ∧ (nextOf (step starting)).isSome = true :=
  ⟨inv_sreqStart _,
    fun
      | 0, h | 1, h | 2, h => by (cases h)
      | _ + 3, h => by (cases h),
    ⟨fun h => by (cases h), fun _ => .inr ⟨[.cmd (.read 0x50 2)], rfl⟩⟩, by decide⟩

/-- The block before the last byte of a Read, after ARM_LAST. -/
def awaitingLast : State :=
  { busAt .rxRead r2 0 1 .read with
    hist := [.cmd (.read 0x50 2), .modCtrl { ackEn := some false, stopReq := some true }] }

theorem witness_OneStopPerSuccessfulCommand :
    Inv awaitingLast ∧ StopCount awaitingLast ∧ (nextOf (step awaitingLast)).map (·.result) = some (some .ok) :=
  ⟨inv_rxRead _, ⟨fun _ => by decide, fun _ _ => by decide, fun h => by (cases h), fun h => by (cases h)⟩, by decide⟩

/-- The block before its first data byte, after an address phase. -/
def sending : State :=
  { busAt .txWrite w1 0 0 .write with
    hist := [.cmd (.write 0x50 [0xAB]), .modCtrl { startReq := some true }, .wrData 0xA0] }

theorem witness_EverySegmentFollowsItsSequence :
    Inv sending ∧ SegmentOk sending ∧ (nextOf (step sending)).isSome = true :=
  ⟨inv_txWrite _,
    ⟨fun _ => ⟨by decide, by decide, by decide, by decide, by decide, by decide, by decide⟩, fun h => by (cases h),
      fun k i b h => by cases h⟩, by decide⟩

theorem witness_ConvenienceFormsAreTransactions :
    (0x68#8).toNat < 128 ∧ bound.handle = .bound ∧ bound.ctl = .rest ∧ 0 < 1 := by decide

theorem witness_StepsIgnoreCommandKindAndHistory : SameButCmd clearing { clearing with cmd := .write, hist := [] } := rfl

/-- Prompt moves laid down for `k` steps make an environment that answers at once through those steps. -/
theorem answered_of_prompt {k : Nat} : ∀ {s u : State}, AnsweredAtOnce s → (∀ m ∈ s.env, ∃ v, m = promptMove v) →
    k ≤ s.env.length → Host.Core.run Sys2Proof.core k s = .next u → AnsweredAtOnce u := by
  induction k with
  | zero => intro s u ha _ _ h; cases h; exact ha
  | succ k ih =>
    intro s u ha hm hl h
    obtain ⟨m, rest, he⟩ := List.exists_cons_of_length_pos (Nat.lt_of_lt_of_le (Nat.succ_pos k) hl)
    simp only [Host.Core.run, core] at h
    split at h
    · next t ht =>
      obtain ⟨h1, -, h2, h3, h4, -⟩ := step_environment ht he
      obtain ⟨v, rfl⟩ := hm m (by simp [he])
      refine ih ⟨fun w _ => ?_, fun _ => by rw [h4]; rfl, fun _ => by rw [h3]; rfl⟩
        (fun x hx => hm x (by rw [he]; exact List.mem_cons_of_mem _ (h1 ▸ hx))) ?_ h
      · rw [h2]
        exact ⟨rfl, by cases w <;> rfl⟩
      · rw [h1]
        simpa [he] using hl
    · cases h
    · cases h

/-- The TRANSACTION of a sequence, with prompt answers for as many steps as it needs. -/
def promptly (ops : List Operation) : State :=
  { holding (.transaction 0x50 ops) with env := List.replicate (promptPoints ops) (promptMove 0) }

theorem promptly_answers (ops : List Operation) (k : Nat) (u : State) (hk : k ≤ promptPoints ops)
    (h : Host.Core.run Sys2Proof.core k (promptly ops) = .next u) : AnsweredAtOnce u :=
  answered_of_prompt ⟨fun w h => by (cases w <;> cases h), fun h => by (cases h), fun h => by (cases h)⟩
    (fun _ hm => ⟨0, (List.mem_replicate.1 hm).2⟩) (by simpa [promptly] using hk) h

theorem witness_TransactionsCompleteUnderPromptAnswers : -- a final Write, and a final Read of length 0 after a turn
    w1 = .write [0xAB] :: [] ∧ (0x50#8).toNat < 128 ∧ Fits (.transaction 0x50 w1) = true ∧
    Holds (.transaction 0x50 w1) (promptly w1) ∧ (promptly w1).params.addrAckClearRead = false ∧
    Fits (.transaction 0x50 [.write [], .read 0]) = true ∧
    Holds (.transaction 0x50 [.write [], .read 0]) (promptly [.write [], .read 0]) ∧
    (∀ ops k u, k ≤ promptPoints ops → Host.Core.run Sys2Proof.core k (promptly ops) = .next u → AnsweredAtOnce u) :=
  ⟨rfl, by decide, by decide, ⟨rfl, rfl, rfl, rfl⟩, rfl, by decide, ⟨rfl, rfl, rfl, rfl⟩, promptly_answers⟩

/-- V24: the bus stays busy; no event flag is needed, and master may come and go. -/
def hanging : State :=
  { busAt .startedCond w1 0 0 .write with
    regs := { Controller.zero with sts2 := ⟨true, true⟩ }
    env := [{ promptMove 0 with sts2 := ⟨false, false⟩ }, { promptMove 0 with sts2 := ⟨true, true⟩ }] }

theorem witness_BusyBusHangsForEver :
    hanging.ctl = .startedCond ∧ KeepsBusy hanging.params hanging.regs.sts hanging.regs.sts2 ∧
    (∀ m ∈ hanging.env, KeepsBusy hanging.params m.sts m.sts2) ∧ 2 ≤ hanging.env.length := by
  unfold KeepsBusy
  decide

end Sys2Proof.Tests
end

section
/-! The rules of the invariant: what a state needs to meet it at each kind of control point, and where in the current
operation the points of one wait stand. -/

namespace Sys2Proof.Machine

/-! ## The place in the current operation -/

theorem addressPoints_apart :
    ∀ p ∈ addressPoints, p ∉ sendPoints ∧ p ∉ recvPoints ∧ p ≠ .armLast ∧ p ≠ .genStop := by decide

theorem sendPoints_apart :
    ∀ p ∈ sendPoints, p ∉ addressPoints ∧ p ∉ recvPoints ∧ p ≠ .armLast ∧ p ≠ .genStop ∧ p ≠ .sreqAckEn := by decide

theorem recvPoints_apart :
    ∀ p ∈ recvPoints, p ∉ addressPoints ∧ p ∉ sendPoints ∧ p ≠ .armLast ∧ p ≠ .genStop ∧ p ≠ .sreqAckEn := by decide

/-- In an address phase (R160) no byte of the operation is transferred yet. -/
theorem placeOk_address {s : State} {op : Operation} (h : s.ctl ∈ addressPoints) :
    PlaceOk s op ↔ s.byteIdx = 0 ∧ (s.ctl = .sreqAckEn → op.dir = .read) := by
  obtain ⟨hsend, hrecv, harm, hstop⟩ := addressPoints_apart _ h
  simp [PlaceOk, h, hsend, hrecv, harm, hstop]

/-- SEND_BYTE (R180) stands at a byte of a Write. -/
theorem placeOk_send {s : State} {op : Operation} (h : s.ctl ∈ sendPoints) :
    PlaceOk s op ↔ op.dir = .write ∧ s.byteIdx < op.length := by
  obtain ⟨haddr, hrecv, harm, hstop, hack⟩ := sendPoints_apart _ h
  simp [PlaceOk, h, haddr, hrecv, harm, hstop, hack]

/-- RECV_BYTE (R184) stands at a byte of a Read. -/
theorem placeOk_recv {s : State} {op : Operation} (h : s.ctl ∈ recvPoints) :
    PlaceOk s op ↔ op.dir = .read ∧ s.byteIdx < op.length := by
  obtain ⟨haddr, hsend, harm, hstop, hack⟩ := recvPoints_apart _ h
  simp [PlaceOk, h, haddr, hsend, harm, hstop, hack]

/-- ARM_LAST (R144) stands before the last byte of a final Read. -/
theorem placeOk_arm {s : State} {op : Operation} (h : s.ctl = .armLast) :
    PlaceOk s op ↔ op.dir = .read ∧ s.byteIdx + 1 = op.length ∧ isFinal s = true := by
  simp [PlaceOk, h, addressPoints, sendPoints, recvPoints]

/-- GEN_STOP (R145) stands behind the last byte of a final Write. -/
theorem placeOk_stop {s : State} {op : Operation} (h : s.ctl = .genStop) :
    PlaceOk s op ↔ op.dir = .write ∧ s.byteIdx = op.length ∧ isFinal s = true := by
  simp [PlaceOk, h, addressPoints, sendPoints, recvPoints]

/-- The control points of the procedure that a wait belongs to (R160, R180, R184). -/
def phaseOf : Wait → List Point
  | .idle | .sreq | .started | .addr => addressPoints
  | .txe | .txc => sendPoints
  | .rx => recvPoints

theorem pollPointOf_mem_phaseOf (w : Wait) : pollPointOf w ∈ phaseOf w := by cases w <;> decide

theorem clearPointOf_mem_phaseOf (w : Wait) : clearPointOf w ∈ phaseOf w := by cases w <;> decide

theorem testTargets_mem_phaseOf (w : Wait) : ∀ p ∈ testTargets w, p ∈ phaseOf w ∧ p ≠ .sreqAckEn := by
  cases w <;> decide

theorem clearPointOf_ne_sreqAckEn (w : Wait) : clearPointOf w ≠ .sreqAckEn := by cases w <;> decide

/-- The points of a procedure are named control points of a bus command. -/
theorem phaseOf_inBusCommand (w : Wait) : ∀ p ∈ phaseOf w, isReserved p = false ∧ inBusCommand p := by
  unfold inBusCommand
  cases w <;> decide

/-- The condition step of a wait goes to no `*_CLEAR` point (R125). -/
theorem testTargets_ne_clearPointOf (w v : Wait) : ∀ p ∈ testTargets w, p ≠ clearPointOf v := by
  cases v <;> cases w <;> decide

/-- Within one procedure the place in the operation stays right. -/
theorem PlaceOk.within {w : Wait} {s t : State} {op : Operation} (h : PlaceOk s op) (hs : s.ctl ∈ phaseOf w)
    (ht : t.ctl ∈ phaseOf w) (ack : t.ctl = .sreqAckEn → op.dir = .read) (same : t.byteIdx = s.byteIdx) :
    PlaceOk t op := by
  cases w
  case idle | sreq | started | addr =>
    exact (placeOk_address ht).2 ⟨same.trans ((placeOk_address hs).1 h).1, ack⟩
  case txe | txc =>
    rw [placeOk_send ht, same]
    exact (placeOk_send hs).1 h
  case rx =>
    rw [placeOk_recv ht, same]
    exact (placeOk_recv hs).1 h

/-! ## What a state needs to meet the invariant -/

/-- What the invariant asks of the registers during a bus command, `ctl` and the place in the sequence apart. It speaks
of fields alone, so an update of any other field keeps it by definition. -/
def BusLatch (s : State) : Prop :=
  s.mem.wf ∧ isBusCmd s.cmd = true ∧ s.handle = .bound ∧ s.result = none ∧ s.txn.done = false ∧
    s.txn.addr = s.addr ∧ addrCheck s.addr = none ∧ 0 < s.cfg.mode.frequency

theorem Inv.busLatch {s : State} (h : Inv s) (hb : inBusCommand s.ctl) : BusLatch s := by
  have b := h.bus hb
  exact ⟨h.memory, b.command, b.bound, b.noResult, b.notDone, b.sameAddr, b.addr7, h.frequency (.inl b.bound)⟩

/-- The current operation of a state in a bus command, with its direction in `dir`. -/
def Serves (s : State) (op : Operation) : Prop := currentOp s = some op ∧ s.dir = op.dir

theorem Inv.place {s : State} (h : Inv s) (hb : inBusCommand s.ctl) : ∃ op, Serves s op ∧ PlaceOk s op := by
  obtain ⟨op, here, dir, place⟩ := (h.bus hb).place
  exact ⟨op, ⟨here, dir⟩, place⟩

/-- The invariant at REST. -/
theorem Inv.ofRest {t : State} (rest : t.ctl = .rest) (memory : t.mem.wf)
    (frequency : t.handle = .bound → 0 < t.cfg.mode.frequency) (noBus : t.result ≠ some (.err .bus)) : Inv t where
  memory := memory
  named := by rw [rest]; rfl
  ackParam h := by rw [rest] at h; cases h
  observed w h := by rw [rest] at h; cases w <;> cases h
  building h := by rw [rest] at h; exact absurd h (by decide)
  bus h := absurd rest h.1
  frequency h := h.elim frequency fun h => absurd (rest ▸ h) (by decide)
  noBusError := noBus

/-- The invariant at a control point of NEW. -/
theorem Inv.ofNew {t : State} (new : t.ctl ∈ newPoints) (memory : t.mem.wf)
    (building : t.cmd = .new ∧ t.handle = .unbound ∧ t.result = none)
    (frequency : 0 < t.cfg.mode.frequency) : Inv t where
  memory := memory
  named := (by decide : ∀ p ∈ newPoints, isReserved p = false) _ new
  ackParam h := by rw [h] at new; exact absurd new (by decide)
  observed w h := by rw [h] at new; cases w <;> exact absurd new (by decide)
  building _ := building
  bus h := absurd new h.2
  frequency _ := frequency
  noBusError := by simp [building.2.2]

/-- The invariant at a control point of a bus command. -/
theorem Inv.ofBus {t : State} {op : Operation} (named : isReserved t.ctl = false ∧ inBusCommand t.ctl)
    (latch : BusLatch t) (serves : Serves t op) (place : PlaceOk t op)
    (ack : t.ctl = .addrAckclr → t.params.addrAckClearRead = true)
    (observed : ∀ w, t.ctl = clearPointOf w →
      firstFault t.snap = some t.pendFlag ∧ t.hist.getLast? = some (.rdSts t.snap)) : Inv t := by
  obtain ⟨memory, command, bound, noResult, notDone, sameAddr, addr7, frequency⟩ := latch
  obtain ⟨here, dir⟩ := serves
  exact {
    memory := memory
    named := named.1
    ackParam := ack
    observed := observed
    building := fun h => absurd h named.2.2
    bus := fun _ => ⟨command, bound, noResult, notDone, sameAddr, addr7, op, here, dir, place⟩
    frequency := fun _ => frequency
    noBusError := by simp [noResult] }

/-- The invariant speaks of nothing that a move of the environment changes. -/
theorem Inv.envStep {u : State} (h : Inv u) : Inv (envStep u) where
  memory := h.memory
  named := h.named
  ackParam := h.ackParam
  observed := h.observed
  building := h.building
  bus hb := by
    obtain ⟨command, bound, noResult, notDone, sameAddr, addr7, place⟩ := h.bus hb
    exact ⟨command, bound, noResult, notDone, sameAddr, addr7, place⟩
  frequency := h.frequency
  noBusError := h.noBusError

/-- The end of a command leaves the invariant at REST. -/
theorem Inv.deliver {s : State} {r : Result} (memory : s.mem.wf)
    (frequency : s.handle = .bound → 0 < s.cfg.mode.frequency) (noBus : r ≠ .err .bus) : Inv (deliver r s) :=
  .ofRest rfl memory frequency (by simpa using noBus)

theorem BusLatch.deliver {s : State} {r : Result} (h : BusLatch s) (noBus : r ≠ .err .bus) : Inv (deliver r s) := by
  obtain ⟨memory, -, -, -, -, -, -, frequency⟩ := h
  exact .deliver memory (fun _ => frequency) noBus

theorem BusLatch.finishOk {s : State} (h : BusLatch s) : Inv (finishOk s) := by
  obtain ⟨memory, -, -, -, -, -, -, frequency⟩ := h
  exact .deliver memory (fun _ => frequency) (by decide)

/-- `u` is in the same command as `s` and at the same byte of its sequence. Where `u` differs from `s` in other fields
only, every part holds by definition. -/
structure SamePosition (s u : State) : Prop where
  latch : BusLatch s → BusLatch u
  ops : u.ops = s.ops
  opIdx : u.opIdx = s.opIdx
  byteIdx : u.byteIdx = s.byteIdx
  dir : u.dir = s.dir

theorem SamePosition.serves {s u : State} {op : Operation} (h : SamePosition s u) (serves : Serves s op) :
    Serves u op := by
  obtain ⟨here, dir⟩ := serves
  exact ⟨by rw [currentOp, h.ops, h.opIdx]; exact here, h.dir.trans dir⟩

/-- From one point of a procedure to another at the same byte. -/
theorem Inv.within {w : Wait} {s t : State} (h : Inv s) (hs : s.ctl ∈ phaseOf w) (ht : t.ctl ∈ phaseOf w)
    (same : SamePosition s t) (ackEn : t.ctl = .sreqAckEn → s.dir = .read)
    (ack : t.ctl = .addrAckclr → t.params.addrAckClearRead = true)
    (observed : ∀ w, t.ctl = clearPointOf w →
      firstFault t.snap = some t.pendFlag ∧ t.hist.getLast? = some (.rdSts t.snap)) : Inv t := by
  have hb := (phaseOf_inBusCommand w _ hs).2
  obtain ⟨op, serves, place⟩ := h.place hb
  exact .ofBus (phaseOf_inBusCommand w _ ht) (same.latch (h.busLatch hb)) (same.serves serves)
    (place.within hs ht (fun e => serves.2.symm.trans (ackEn e)) same.byteIdx) ack observed

/-- Points of a bus command of which the invariant asks nothing but their place: no `*_CLEAR` point, neither SREQ_ACK_EN
nor ADDR_ACKCLR. -/
def plainPoints : List Point :=
  [.idlePoll, .sreqStart, .sreqPoll, .startedPoll, .addrWrite, .addrPoll, .txePoll, .txcPoll, .rxPoll, .armLast,
    .genStop]

theorem plainPoints_facts :
    ∀ p ∈ plainPoints, (isReserved p = false ∧ inBusCommand p) ∧ p ≠ .addrAckclr ∧ p ≠ .sreqAckEn := by
  unfold inBusCommand
  decide

theorem plainPoints_ne_clearPointOf (w : Wait) : ∀ p ∈ plainPoints, p ≠ clearPointOf w := by
  cases w <;> decide

theorem Inv.ofPlain {t : State} {op : Operation} {p : Point} (ctl : t.ctl = p) (plain : p ∈ plainPoints)
    (latch : BusLatch t) (serves : Serves t op) (place : PlaceOk t op) : Inv t := by
  subst ctl
  obtain ⟨named, noAck, -⟩ := plainPoints_facts _ plain
  exact .ofBus named latch serves place (fun h => absurd h noAck)
    (fun w h => absurd h (plainPoints_ne_clearPointOf w _ plain))

/-- From a point of a procedure to a plain one of the same procedure. -/
theorem Inv.toPlain {w : Wait} {s u : State} {p : Point} (h : Inv s) (hs : s.ctl ∈ phaseOf w) (ht : p ∈ phaseOf w)
    (plain : p ∈ plainPoints) (same : SamePosition s u) : Inv (goto p u) := by
  obtain ⟨-, noAck, noAckEn⟩ := plainPoints_facts _ plain
  exact h.within hs ht ⟨same.latch, same.ops, same.opIdx, same.byteIdx, same.dir⟩ (fun e => absurd e noAckEn)
    (fun e => absurd e noAck) (fun v e => absurd e (plainPoints_ne_clearPointOf v _ plain))

/-! ## `dispatch` keeps the invariant -/

/-- `Serves` and a `byte_idx` within the operation are all that `dispatch` (R214) needs to come out right. -/
theorem Exit.inv {u t : State} {op : Operation} (exit : Exit u op t) (latch : BusLatch u) (serves : Serves u op)
    (within : u.byteIdx ≤ op.length) : Inv t := by
  cases exit with
  | send more =>
    exact .ofPlain (p := .txePoll) rfl (by decide) latch serves
      ((placeOk_send (.head _)).2 ⟨rfl, more⟩)
  | stop past last =>
    exact .ofPlain (p := .genStop) rfl (by decide) latch serves
      ((placeOk_stop rfl).2 ⟨rfl, Nat.le_antisymm within past, last⟩)
  | empty last => exact latch.deliver (by decide)
  | arm one last =>
    exact .ofPlain (p := .armLast) rfl (by decide) latch serves ((placeOk_arm rfl).2 ⟨rfl, one, last⟩)
  | receive more plain =>
    exact .ofPlain (p := .rxPoll) rfl (by decide) latch serves
      ((placeOk_recv (.head _)).2 ⟨rfl, more⟩)
  | finish pos past last => exact latch.finishOk
  | turn past next other =>
    exact .ofPlain (p := .idlePoll) rfl (by decide) latch ⟨next, rfl⟩
      ((placeOk_address (.head _)).2 ⟨rfl, by simp⟩)

theorem Advanced.busLatch {s u : State} (h : Advanced s u) (latch : BusLatch s) : BusLatch u := by
  rw [h.eq]; exact latch

theorem inv_of_dispatch {s t : State} {op : Operation} (latch : BusLatch s) (serves : Serves s op)
    (within : s.byteIdx ≤ op.length) (go : dispatch s = .next t) : Inv t := by
  obtain ⟨here, dir⟩ := serves
  obtain ⟨u, op', adv, here', exit⟩ := dispatch_next go
  have dir' : u.dir = op'.dir := by
    rw [adv.dir op op' here here', ← dir, adv.eq]
  exact exit.inv (adv.busLatch latch) ⟨here', dir'⟩ (adv.byteIdx_le op op' here within here')

/-- `Ready` (R165): `dispatch` from an address phase. -/
theorem Inv.ready {s u t : State} (h : Inv s) (hs : s.ctl ∈ addressPoints) (go : dispatch u = .next t)
    (same : SamePosition s u) : Inv t := by
  have hb := (phaseOf_inBusCommand .addr _ hs).2
  obtain ⟨op, serves, place⟩ := h.place hb
  obtain ⟨zero, -⟩ := (placeOk_address hs).1 place
  refine inv_of_dispatch (same.latch (h.busLatch hb)) (same.serves serves) ?_ go
  rw [same.byteIdx, zero]
  exact Nat.zero_le _

/-- `byte_done` (R187) after a byte of the current operation. -/
theorem Inv.byteDone {s u t : State} {w : Wait} (h : Inv s) (hs : s.ctl ∈ phaseOf w) (data : w = .txc ∨ w = .rx)
    (go : byteDone u = .next t) (same : SamePosition s u) : Inv t := by
  have hb := (phaseOf_inBusCommand w _ hs).2
  obtain ⟨op, serves, place⟩ := h.place hb
  have more : s.byteIdx < op.length := by
    rcases data with rfl | rfl
    · exact ((placeOk_send hs).1 place).2
    · exact ((placeOk_recv hs).1 place).2
  refine inv_of_dispatch (s := { u with byteIdx := u.byteIdx + 1 }) (same.latch (h.busLatch hb))
    (same.serves serves) ?_ go
  exact same.byteIdx ▸ more

theorem BusLatch.receiveByte {s : State} (h : BusLatch s) : BusLatch (receiveByte s) := by
  obtain ⟨memory, rest⟩ := h
  exact ⟨memWrite_wf _ _ memory, rest⟩

/-! ## Every step keeps the invariant -/

theorem raisedError_ne_bus (w : Wait) (f : FaultFlag) : raisedError w f ≠ some .bus := by
  cases w <;> cases f <;> decide

/-- IDLE_COND (R141): the acknowledge-enable comes only before a Read address phase. -/
theorem Inv.idleCond {s : State} (h : Inv s) (here : s.ctl = .idleCond) : Inv (idleCond s) := by
  have hs : s.ctl ∈ phaseOf .idle := by rw [here]; decide
  unfold Machine.idleCond
  split
  · exact h.toPlain hs (by decide) (by decide) ⟨id, rfl, rfl, rfl, rfl⟩
  · split
    · next read =>
      exact h.within hs (by decide : Point.sreqAckEn ∈ _) ⟨id, rfl, rfl, rfl, rfl⟩ (fun _ => read)
        (fun e => by cases e) (fun v e => by cases v <;> cases e)
    · exact h.toPlain hs (by decide) (by decide) ⟨id, rfl, rfl, rfl, rfl⟩

/-- STARTED_COND (R163). -/
theorem Inv.startedCond {s : State} (h : Inv s) (here : s.ctl = .startedCond) : Inv (startedCond s) := by
  have hs : s.ctl ∈ phaseOf .started := by rw [here]; decide
  unfold Machine.startedCond
  split <;> exact h.toPlain hs (by decide) (by decide) ⟨id, rfl, rfl, rfl, rfl⟩

/-- ARM_LAST (R144): the last byte of the final Read is still to come. -/
theorem Inv.armLast {s : State} (h : Inv s) (here : s.ctl = .armLast) : Inv (armLast s) := by
  have hb : inBusCommand s.ctl := by rw [here]; exact ⟨by decide, by decide⟩
  obtain ⟨op, serves, place⟩ := h.place hb
  obtain ⟨read, last, -⟩ := (placeOk_arm here).1 place
  exact .ofPlain (p := .rxPoll) rfl (by decide) (h.busLatch hb) serves
    ((placeOk_recv (.head _)).2 ⟨read, last ▸ Nat.lt_succ_self _⟩)

/-- A control point of a bus command keeps the invariant. -/
theorem BusCase.inv {s t : State} (step : BusCase s t) (h : Inv s) (hb : inBusCommand s.ctl) : Inv t := by
  have latch := h.busLatch hb
  cases step with
  | @test w p here clean target ack =>
    obtain ⟨mem, noAckEn⟩ := testTargets_mem_phaseOf w p target
    exact h.within (here ▸ pollPointOf_mem_phaseOf w) mem ⟨id, rfl, rfl, rfl, rfl⟩ (fun e => absurd e noAckEn) ack
      (fun v e => absurd e (testTargets_ne_clearPointOf w v p target))
  | @hold w f here seen =>
    exact h.within (here ▸ pollPointOf_mem_phaseOf w) (clearPointOf_mem_phaseOf w) ⟨id, rfl, rfl, rfl, rfl⟩
      (fun e => absurd e (clearPointOf_ne_sreqAckEn w)) (fun e => by cases w <;> cases e)
      (fun _ _ => ⟨seen, by simp⟩)
  | @ignore w p here flag target ack =>
    obtain ⟨mem, noAckEn⟩ := testTargets_mem_phaseOf w p target
    exact h.within (here ▸ clearPointOf_mem_phaseOf w) mem ⟨id, rfl, rfl, rfl, rfl⟩ (fun e => absurd e noAckEn) ack
      (fun v e => absurd e (testTargets_ne_clearPointOf w v p target))
  | @abort w e here err =>
    refine BusLatch.deliver (s := regClear s.pendFlag s) latch ?_
    rintro ⟨rfl⟩
    exact raisedError_ne_bus w _ err
  | readyPoll here clean go => exact h.ready (by rw [here]; decide) go ⟨id, rfl, rfl, rfl, rfl⟩
  | readyClear here flag go => exact h.ready (by rw [here]; decide) go ⟨id, rfl, rfl, rfl, rfl⟩
  | readyAck here go => exact h.ready (by rw [here]; decide) go ⟨id, rfl, rfl, rfl, rfl⟩
  | sentPoll here clean go =>
    exact h.byteDone (w := .txc) (by rw [here]; decide) (.inl rfl) go ⟨id, rfl, rfl, rfl, rfl⟩
  | sentClear here flag go =>
    exact h.byteDone (w := .txc) (by rw [here]; decide) (.inl rfl) go ⟨id, rfl, rfl, rfl, rfl⟩
  | received here room go =>
    exact h.byteDone (w := .rx) (by rw [here]; decide) (.inr rfl) go ⟨BusLatch.receiveByte, rfl, rfl, rfl, rfl⟩
  | idleCond here => exact h.idleCond here
  | ackEn here => exact h.toPlain (w := .addr) (by rw [here]; decide) (by decide) (by decide) ⟨id, rfl, rfl, rfl, rfl⟩
  | start here => exact h.toPlain (w := .addr) (by rw [here]; decide) (by decide) (by decide) ⟨id, rfl, rfl, rfl, rfl⟩
  | startedCond here => exact h.startedCond here
  | address here => exact h.toPlain (w := .addr) (by rw [here]; decide) (by decide) (by decide) ⟨id, rfl, rfl, rfl, rfl⟩
  | send here byte =>
    exact h.toPlain (w := .txc) (by rw [here]; decide) (by decide) (by decide) ⟨id, rfl, rfl, rfl, rfl⟩
  | arm here => exact h.armLast here
  | stop here => exact BusLatch.finishOk (s := modCtrl _ s) latch

/-- Accepting a command keeps the invariant (R23, R210, R213, R240, R243). -/
theorem AcceptCase.inv {s u : State} {i : Instr} (accepted : AcceptCase s i u) (h : Inv s) : Inv u := by
  cases accepted with
  | new free pos => exact .ofNew (by simp [newPoints]) h.memory ⟨rfl, free, rfl⟩ (Nat.pos_of_ne_zero pos)
  | release held => exact .deliver h.memory (fun e => by cases e) (by decide)
  | emptyRead held addr => exact .deliver h.memory (fun _ => h.frequency (.inl held)) (by decide)
  | emptyTransaction held addr => exact .deliver h.memory (fun _ => h.frequency (.inl held)) (by decide)
  | bus held addr kind shape =>
    exact .ofPlain (p := .idlePoll) rfl (by decide)
      ⟨h.memory, kind, held, rfl, rfl, rfl, addr, h.frequency (.inl held)⟩ ⟨rfl, rfl⟩
      ((placeOk_address (.head _)).2 ⟨rfl, by simp⟩)

/-- Settles O49: each case of a step keeps the invariant, and the environment's move does not touch it. -/
theorem everyStepKeepsTheInvariant : Obligations.EveryStepKeepsTheInvariant := by
  intro s t h hstep
  obtain ⟨u, rfl, hu⟩ := step_cases hstep
  refine Inv.envStep ?_
  rcases hu with ⟨-, rfl⟩ | ⟨rest, i, ws, bs, -, accepted⟩ | ⟨here, rfl⟩ | ⟨here, rfl⟩ | ⟨here, rfl⟩ | ⟨hb, busCase⟩
  · exact h
  · exact accepted.inv (.ofRest rest h.memory (fun e => h.frequency (.inl e)) h.noBusError)
  · have new : s.ctl ∈ newPoints := by rw [here]; decide
    exact .ofNew (by simp [newEnable, newPoints]) h.memory (h.building new) (h.frequency (.inr new))
  · have new : s.ctl ∈ newPoints := by rw [here]; decide
    exact .ofNew (by simp [newReset, newPoints]) h.memory (h.building new) (h.frequency (.inr new))
  · have new : s.ctl ∈ newPoints := by rw [here]; decide
    exact .deliver h.memory (fun _ => h.frequency (.inr new)) (by decide)
  · exact busCase.inv h hb

end Sys2Proof.Machine
end

section
/-! What one control point changes: its access (R24) changes the controller, the snapshot or a Read buffer; what follows
silently changes the position in the sequence, `pend_flag` and the result. -/

namespace Sys2Proof.Machine

/-- The one access of each control point of a bus command. -/
inductive Access (s : State) : State → Prop
  | status (here : s.ctl ∈ pollPoints) : Access s (readStatus s)
  | clear (here : s.ctl ∈ clearPoints) : Access s (regClear s.pendFlag s)
  | status2 (here : s.ctl ∈ [.startedCond, .addrAckclr]) : Access s (readStatus2 s)
  | stopPending (here : s.ctl = .idleCond) : Access s (readStopPending s)
  | control {a} (here : s.ctl ∈ [.sreqAckEn, .sreqStart, .armLast, .genStop]) : Access s (modCtrl a s)
  | address {b} (here : s.ctl = .addrWrite) : Access s (writeData b s)
  | transmit {b} (here : s.ctl = .txWrite) : Access s (transmitByte b s)
  | receive (here : s.ctl = .rxRead) : Access s (receiveByte s)

/-- What may follow the access at the control point `p` without a further one: registers of the sequence, a fault held,
a result. -/
structure Silent (p : Point) (u t : State) : Prop where
  frame : t = { u with
    txn := t.txn, opIdx := t.opIdx, byteIdx := t.byteIdx, dir := t.dir, ctl := t.ctl, pendFlag := t.pendFlag
    result := t.result, hist := t.hist, resOut := t.resOut }
  target : t.txn.addr = u.txn.addr
  held : p ∉ pollPoints → t.pendFlag = u.pendFlag
  position : p ∉ dispatchPoints →
    t.opIdx = u.opIdx ∧ t.byteIdx = u.byteIdx ∧ t.dir = u.dir ∧ t.txn.prevDir = u.txn.prevDir
  running : t.ctl ≠ .rest → t.result = u.result ∧ t.resOut = u.resOut
  done : t.result ≠ some .ok → t.txn.done = u.txn.done
  events : ∃ es, t.hist = u.hist ++ es ∧ es.countP isAccess = 0

theorem pollPointOf_mem_pollPoints (w : Wait) : pollPointOf w ∈ pollPoints := by cases w <;> decide

theorem clearPointOf_mem_clearPoints (w : Wait) : clearPointOf w ∈ clearPoints := by cases w <;> decide

theorem silent_goto (p q : Point) (u : State) : Silent p u (goto q u) where
  frame := rfl
  target := rfl
  held _ := rfl
  position _ := ⟨rfl, rfl, rfl, rfl⟩
  running _ := ⟨rfl, rfl⟩
  done _ := rfl
  events := ⟨[], (List.append_nil _).symm, rfl⟩

theorem silent_holdFault {p : Point} (w : Wait) (f : FaultFlag) (u : State) (poll : p ∈ pollPoints) :
    Silent p u (holdFault w f u) where
  frame := rfl
  target := rfl
  held h := absurd poll h
  position _ := ⟨rfl, rfl, rfl, rfl⟩
  running _ := ⟨rfl, rfl⟩
  done _ := rfl
  events := ⟨[], (List.append_nil _).symm, rfl⟩

theorem silent_raise (p : Point) (e : Err) (u : State) : Silent p u (raise e u) where
  frame := rfl
  target := rfl
  held _ := rfl
  position _ := ⟨rfl, rfl, rfl, rfl⟩
  running h := absurd rfl h
  done _ := rfl
  events := ⟨[.res (.err e)], rfl, rfl⟩

theorem silent_finishOk (p : Point) (u : State) : Silent p u (finishOk u) where
  frame := rfl
  target := rfl
  held _ := rfl
  position _ := ⟨rfl, rfl, rfl, rfl⟩
  running h := absurd rfl h
  done h := absurd rfl h
  events := ⟨[.res .ok], rfl, rfl⟩

/-- The exits of `dispatch` append a result at most. -/
theorem Exit.events {u t : State} {op : Operation} (h : Exit u op t) :
    ∃ es, t.hist = u.hist ++ es ∧ es.countP isAccess = 0 := by
  cases h with
  | empty => exact ⟨[.res (.err .overrun)], rfl, rfl⟩
  | finish => exact ⟨[.res .ok], rfl, rfl⟩
  | send | stop | arm | receive | turn => exact ⟨[], (List.append_nil _).symm, rfl⟩

theorem silent_dispatch {p : Point} {u t : State} (go : dispatch u = .next t) (here : p ∈ dispatchPoints) :
    Silent p u t := by
  obtain ⟨frame, target, running, done⟩ := dispatch_frame go
  have pend : t.pendFlag = u.pendFlag := by rw [frame]
  exact {
    frame := by rw [pend]; exact frame
    target := target
    held := fun _ => pend
    position := fun h => absurd here h
    running := fun h => ⟨(running h).1, (running h).2.2⟩
    done := done
    events := by
      obtain ⟨v, op, adv, -, exit⟩ := dispatch_next go
      have e := exit.events
      rw [adv.eq] at e
      exact e }

/-- `byte_done` (R187) counts the byte and dispatches. -/
theorem silent_byteDone {p : Point} {u t : State} (go : byteDone u = .next t) (here : p ∈ dispatchPoints) :
    Silent p u t := by
  obtain ⟨frame, target, held, -, running, done, events⟩ := silent_dispatch go here
  exact ⟨frame, target, held, fun h => absurd here h, running, done, events⟩

/-- A control point of a bus command makes its access and goes on silently. -/
theorem BusCase.access {s t : State} (h : BusCase s t) : ∃ u, Access s u ∧ Silent s.ctl u t := by
  cases h with
  | test here => exact ⟨_, .status (here ▸ pollPointOf_mem_pollPoints _), silent_goto _ _ _⟩
  | hold here =>
    have poll := here ▸ pollPointOf_mem_pollPoints _
    exact ⟨_, .status poll, silent_holdFault _ _ _ poll⟩
  | ignore here flag => exact ⟨_, flag ▸ .clear (here ▸ clearPointOf_mem_clearPoints _), silent_goto _ _ _⟩
  | abort here => exact ⟨_, .clear (here ▸ clearPointOf_mem_clearPoints _), silent_raise _ _ _⟩
  | readyPoll here clean go =>
    exact ⟨_, .status (by rw [here]; decide), silent_dispatch go (by rw [here]; decide)⟩
  | readyClear here flag go =>
    exact ⟨_, flag ▸ .clear (by rw [here]; decide), silent_dispatch go (by rw [here]; decide)⟩
  | readyAck here go => exact ⟨_, .status2 (by rw [here]; decide), silent_dispatch go (by rw [here]; decide)⟩
  | sentPoll here clean go =>
    exact ⟨_, .status (by rw [here]; decide), silent_byteDone go (by rw [here]; decide)⟩
  | sentClear here flag go =>
    exact ⟨_, flag ▸ .clear (by rw [here]; decide), silent_byteDone go (by rw [here]; decide)⟩
  | received here room go => exact ⟨_, .receive here, silent_byteDone go (by rw [here]; decide)⟩
  | idleCond here => exact ⟨_, .stopPending here, silent_goto _ _ _⟩
  | ackEn here => exact ⟨_, .control (by rw [here]; decide), silent_goto _ _ _⟩
  | start here => exact ⟨_, .control (by rw [here]; decide), silent_goto _ _ _⟩
  | startedCond here => exact ⟨_, .status2 (by rw [here]; decide), silent_goto _ _ _⟩
  | address here => exact ⟨_, .address here, silent_goto _ _ _⟩
  | send here => exact ⟨_, .transmit here, silent_goto _ _ _⟩
  | arm here => exact ⟨_, .control (by rw [here]; decide), silent_goto _ _ _⟩
  | stop here => exact ⟨_, .control (by rw [here]; decide), silent_finishOk _ _⟩

/-! ## What is left unchanged -/

/-- `t` has the command latch, the streams to the block and the model's own constants of `s`. -/
def SameLatch (s t : State) : Prop :=
  t.cfg = s.cfg ∧ t.cmd = s.cmd ∧ t.addr = s.addr ∧ t.ops = s.ops ∧ t.call = s.call ∧ t.params = s.params ∧
    t.env = s.env ∧ t.cmdIn = s.cmdIn ∧ t.wdata = s.wdata ∧ t.txn.addr = s.txn.addr

/-- No access of a bus command touches the registers of the sequence, the result or `pend_flag`. -/
theorem Access.sequence {s u : State} (h : Access s u) :
    u.opIdx = s.opIdx ∧ u.byteIdx = s.byteIdx ∧ u.dir = s.dir ∧ u.txn = s.txn ∧ u.result = s.result ∧
      u.resOut = s.resOut ∧ u.pendFlag = s.pendFlag := by
  cases h <;> exact ⟨rfl, rfl, rfl, rfl, rfl, rfl, rfl⟩

/-- Nor the controller's answers, its CFG or the free values. -/
theorem Access.answers {s u : State} (h : Access s u) :
    u.tick = s.tick ∧ u.regs.stopPending = s.regs.stopPending ∧ u.regs.sts2 = s.regs.sts2 ∧
      u.regs.rxData = s.regs.rxData ∧ u.regs.cfg = s.regs.cfg := by
  cases h <;> exact ⟨rfl, rfl, rfl, rfl, rfl⟩

theorem Access.snap {s u : State} (h : Access s u) (away : s.ctl ∉ pollPoints) : u.snap = s.snap := by
  cases h with
  | status here => exact absurd here away
  | _ => rfl

theorem Access.sts {s u : State} (h : Access s u) (away : s.ctl ∉ clearPoints) : u.regs.sts = s.regs.sts := by
  cases h with
  | clear here => exact absurd here away
  | _ => rfl

theorem clearPoints_apart :
    ∀ p ∈ clearPoints, p ∉ pollPoints ∧ p ∉ [.startedCond, .addrAckclr] ∧ p ≠ .idleCond ∧
      p ∉ [.sreqAckEn, .sreqStart, .armLast, .genStop] ∧ p ≠ .addrWrite ∧ p ≠ .txWrite ∧ p ≠ .rxRead := by decide

/-- A `*_CLEAR` point clears the flag in `pend_flag` (R124). -/
theorem Access.sts_cleared {s u : State} (h : Access s u) (at_clear : s.ctl ∈ clearPoints) :
    u.regs.sts = clearFlag s.pendFlag s.regs.sts := by
  obtain ⟨noPoll, noStatus2, noIdle, noControl, noAddress, noTransmit, noReceive⟩ := clearPoints_apart _ at_clear
  cases h with
  | clear => rfl
  | status here | status2 here | stopPending here | control here | address here | transmit here | receive here =>
    contradiction

theorem Access.txData {s u : State} (h : Access s u) (away : s.ctl ∉ [.addrWrite, .txWrite]) :
    u.regs.txData = s.regs.txData := by
  cases h with
  | address here | transmit here => simp [here] at away
  | _ => rfl

theorem Access.buffers {s u : State} (h : Access s u) (away : s.ctl ≠ .rxRead) : u.rdata = s.rdata ∧ u.mem = s.mem := by
  cases h with
  | receive here => exact absurd here away
  | _ => exact ⟨rfl, rfl⟩

/-- An access appends one register-interface access to the history (R24). -/
theorem Access.events {s u : State} (h : Access s u) : ∃ es, u.hist = s.hist ++ es ∧ es.countP isAccess = 1 := by
  cases h with
  | transmit => exact ⟨_, List.append_assoc _ _ _, rfl⟩
  | _ => exact ⟨_, rfl, rfl⟩

theorem Silent.sameLatch {p : Point} {u t : State} (h : Silent p u t) : SameLatch u t := by
  refine ⟨?_, ?_, ?_, ?_, ?_, ?_, ?_, ?_, ?_, h.target⟩ <;> rw [h.frame]

/-- A control point of a bus command does not change the latch (R23, R74). -/
theorem BusCase.sameLatch {s t : State} (h : BusCase s t) : SameLatch s t := by
  obtain ⟨u, access, silent⟩ := h.access
  cases access <;> exact silent.sameLatch

/-- Nor the handle (R21). -/
theorem BusCase.handle {s t : State} (h : BusCase s t) : t.handle = s.handle := by
  obtain ⟨u, access, silent⟩ := h.access
  have same : t.handle = u.handle := by rw [silent.frame]
  cases access <;> exact same

/-- The controller, the snapshot and the buffers are as the access left them. -/
theorem Silent.registers {p : Point} {u t : State} (h : Silent p u t) :
    t.snap = u.snap ∧ t.regs = u.regs ∧ t.tick = u.tick ∧ t.rdata = u.rdata ∧ t.mem = u.mem := by
  refine ⟨?_, ?_, ?_, ?_, ?_⟩ <;> rw [h.frame]

/-! ## A control point does not read `ctl` -/

/-- The point of the next byte of an operation (R214). -/
def dataPoint : Dir → Point
  | .write => .txePoll
  | .read => .rxPoll

/-- `dispatch` at an operation that is not the final one (R214, R215). -/
theorem dispatchOn_cons_cons (op op' : Operation) (rest : List Operation) (s : State) :
    dispatchOn (op :: op' :: rest) s =
      if s.byteIdx < op.length then .next (goto (dataPoint op.dir) s)
      else if op'.dir = op.dir then dispatchOn (op' :: rest) (advanceOp op.dir s)
      else .next (turnBus op'.dir (advanceOp op.dir s)) := by
  cases op <;> rfl

theorem dispatchOn_goto (q : Point) (ops : List Operation) :
    ∀ s : State, dispatchOn ops (goto q s) = dispatchOn ops s := by
  induction ops with
  | nil => intro s; rfl
  | cons op later ih =>
    intro s
    cases later with
    | nil => cases op <;> rfl
    | cons op' rest =>
      rw [dispatchOn_cons_cons, dispatchOn_cons_cons, ← ih (advanceOp op.dir s)]
      rfl

theorem waitTest_goto (w : Wait) (q : Point) (s : State) : waitTest w (goto q s) = waitTest w s := by
  have ready : dispatch (goto q s) = dispatch s := dispatchOn_goto q _ s
  have sent : byteDone (goto q s) = byteDone s := dispatchOn_goto q _ { s with byteIdx := s.byteIdx + 1 }
  cases w <;> simp only [waitTest, ready, sent] <;> rfl

theorem pollPoint_goto (w : Wait) (q : Point) (s : State) : pollPoint w (goto q s) = pollPoint w s := by
  simp only [pollPoint, ← waitTest_goto w q (readStatus s)]
  rfl

theorem clearPoint_goto (w : Wait) (q : Point) (s : State) : clearPoint w (goto q s) = clearPoint w s := by
  simp only [clearPoint, ← waitTest_goto w q (regClear s.pendFlag s)]
  rfl

/-- What a control point does depends on the point alone, not on what `ctl` held. -/
theorem runPoint_goto {p : Point} (hp : p ≠ .rest) (q : Point) (s : State) :
    runPoint p (goto q s) = runPoint p s := by
  cases p with
  | rest => exact absurd rfl hp
  | rxRead =>
    simp only [runPoint, rxRead, byteDone, dispatch]
    rw [← dispatchOn_goto q _ { receiveByte s with byteIdx := (receiveByte s).byteIdx + 1 }]
    rfl
  | addrAckclr =>
    simp only [runPoint, ackClear, dispatch]
    rw [← dispatchOn_goto q _ (readStatus2 s)]
    rfl
  | idlePoll | sreqPoll | startedPoll | addrPoll | txePoll | txcPoll | rxPoll => exact pollPoint_goto _ q s
  | idleClear | sreqClear | startedClear | addrClear | txeClear | txcClear | rxClear => exact clearPoint_goto _ q s
  | _ => rfl

end Sys2Proof.Machine
end

section
/-! The frame of every control point (O41), of a step during a command (O44) and of the handle (O45); completion with
exactly one access (O39). -/

namespace Sys2Proof.Machine

theorem rest_or_new_of_not_bus {p : Point} (h : ¬ inBusCommand p) : p = .rest ∨ p ∈ newPoints := by
  by_contra hc
  exact h ⟨fun e => hc (.inl e), fun e => hc (.inr e)⟩

/-- Settles O41: a point of a bus command is its access and its silent part; REST and the points of NEW are read off. -/
theorem pointsLeaveEverythingElse : Obligations.PointsLeaveEverythingElse := by
  intro p s t h
  rw [exec_pointInstr] at h
  by_cases bus : inBusCommand p
  · have busCase : BusCase (goto p s) t := bus_case bus ((runPoint_goto bus.1 p s).trans h)
    obtain ⟨u, access, silent⟩ := busCase.access
    obtain ⟨cfg, cmd, addr, ops, call, params, env, cmdIn, wdata, target⟩ := busCase.sameLatch
    obtain ⟨snap, regs, tick, rdata, mem⟩ := silent.registers
    obtain ⟨opIdx, byteIdx, dir, txn, result, resOut, pendFlag⟩ := access.sequence
    obtain ⟨tick', stopPending, sts2, rxData, timing⟩ := access.answers
    refine ⟨cfg, cmd, addr, ops, call, params, env, cmdIn, wdata, target, fun _ => busCase.handle, fun away => ?_,
      fun _ => ?_, fun away _ => ?_, fun here => ?_, fun away => ?_, fun _ => ?_, fun away => ?_, fun away => ?_,
      fun running => ?_,
      fun notOk => ?_⟩
    · exact ⟨snap.trans (access.snap away), (silent.held away).trans pendFlag⟩
    · rw [regs]; exact ⟨tick.trans tick', stopPending, sts2, rxData⟩
    · rw [regs]; exact access.sts away
    · rw [regs]; exact access.sts_cleared here
    · rw [regs]; exact access.txData fun e => away (by simp_all)
    · rw [regs]; exact timing
    · obtain ⟨rdata', mem'⟩ := access.buffers away
      exact ⟨rdata.trans rdata', fun a => by rw [mem, mem']; rfl⟩
    · obtain ⟨hk, hi, hd, hprev⟩ := silent.position away
      exact ⟨hk.trans opIdx, hi.trans byteIdx, hd.trans dir, by rw [hprev, txn]; rfl⟩
    · obtain ⟨hr, ho⟩ := silent.running running
      exact ⟨hr.trans result, ho.trans resOut⟩
    · rw [silent.done notOk, txn]; rfl
  · rcases rest_or_new_of_not_bus bus with rfl | new
    · cases h; simp [clearPoints]
    · simp only [newPoints, List.mem_cons, List.not_mem_nil, or_false] at new
      rcases new with rfl | rfl | rfl <;> cases h
      · simp [newEnable, clearPoints]
      · simp [newReset, clearPoints]
      · simp [newApply, clearPoints]

/-- Settles O44: away from REST a step is a control point, and the environment's move is not part of the latch. -/
theorem commandIsLatchedUntilItEnds : Obligations.CommandIsLatchedUntilItEnds := by
  intro s t away hstep
  obtain ⟨u, rfl, hu⟩ := step_cases hstep
  have latch : SameLatch s u := by
    rcases hu with ⟨rest, -⟩ | ⟨rest, -⟩ | ⟨-, rfl⟩ | ⟨-, rfl⟩ | ⟨-, rfl⟩ | ⟨-, busCase⟩
    · exact absurd rest away
    · exact absurd rest away
    · exact ⟨rfl, rfl, rfl, rfl, rfl, rfl, rfl, rfl, rfl, rfl⟩
    · exact ⟨rfl, rfl, rfl, rfl, rfl, rfl, rfl, rfl, rfl, rfl⟩
    · exact ⟨rfl, rfl, rfl, rfl, rfl, rfl, rfl, rfl, rfl, rfl⟩
    · exact busCase.sameLatch
  obtain ⟨cfg, cmd, addr, ops, call, params, -, cmdIn, wdata, target⟩ := latch
  exact ⟨cfg, cmd, addr, ops, call, target, cmdIn, wdata, params⟩

/-- Of the commands that are accepted only RELEASE changes the handle at once (R243). -/
theorem AcceptCase.handle {s u : State} {i : Instr} (h : AcceptCase s i u) :
    u.handle = s.handle ∨ i = .release ∧ u.handle = .unbound := by
  cases h with
  | release => exact .inr ⟨rfl, rfl⟩
  | new | emptyRead | emptyTransaction | bus => exact .inl rfl

/-- Settles O45: by the cases of a step. -/
theorem handleIsBoundAndUnboundByTwoSteps : Obligations.HandleIsBoundAndUnboundByTwoSteps := by
  intro s t hstep changed
  obtain ⟨u, rfl, hu⟩ := step_cases hstep
  rcases hu with ⟨-, rfl⟩ | ⟨rest, i, ws, bs, spelled, accepted⟩ | ⟨-, rfl⟩ | ⟨-, rfl⟩ | ⟨here, rfl⟩ | ⟨-, busCase⟩
  · exact absurd rfl changed
  · rcases accepted.handle with same | ⟨rfl, unbound⟩
    · exact absurd same changed
    · exact .inr ⟨rest, unbound, ws, bs, spelled⟩
  · exact absurd rfl changed
  · exact absurd rfl changed
  · exact .inl ⟨here, rfl⟩
  · exact absurd busCase.handle changed

/-! ## Completion -/

theorem dispatch_completes {s : State} {op : Operation} (here : currentOp s = some op) : ∃ t, dispatch s = .next t := by
  obtain ⟨u, op', t, -, -, -, go⟩ := dispatch_spec here
  exact ⟨t, go⟩

theorem byteDone_completes {s : State} {op : Operation} (here : currentOp s = some op) : ∃ t, byteDone s = .next t :=
  dispatch_completes (s := { s with byteIdx := s.byteIdx + 1 }) here

theorem waitTest_completes {s : State} {op : Operation} (w : Wait) (here : currentOp s = some op) :
    ∃ t, waitTest w s = .next t := by
  cases w with
  | idle | sreq | started | txe | rx => exact ⟨_, rfl⟩
  | addr =>
    simp only [waitTest]
    split
    · split
      · exact ⟨_, rfl⟩
      · exact dispatch_completes here
    · exact ⟨_, rfl⟩
  | txc =>
    simp only [waitTest]
    split
    · exact byteDone_completes here
    · exact ⟨_, rfl⟩

theorem pollPoint_completes {s : State} {op : Operation} (w : Wait) (here : currentOp s = some op) :
    ∃ t, pollPoint w s = .next t := by
  unfold pollPoint
  split
  · exact waitTest_completes (s := readStatus s) w here
  · exact ⟨_, rfl⟩

theorem clearPoint_completes {s : State} {op : Operation} (w : Wait) (here : currentOp s = some op) :
    ∃ t, clearPoint w s = .next t := by
  unfold clearPoint
  split
  · exact waitTest_completes (s := regClear s.pendFlag s) w here
  · exact ⟨_, rfl⟩

theorem ackClear_completes {s : State} {op : Operation} (here : currentOp s = some op)
    (param : s.params.addrAckClearRead = true) : ∃ t, ackClear s = .next t := by
  rw [ackClear, if_pos param]
  exact dispatch_completes (s := readStatus2 s) here

/-- TX_WRITE has its byte where a Write is current and `byte_idx` is in its slice (R66). -/
theorem txWrite_completes {s : State} {op : Operation} (here : currentOp s = some op) (write : op.dir = .write)
    (more : s.byteIdx < op.length) : ∃ t, txWrite s = .next t := by
  cases op with
  | read n => cases write
  | write bs =>
    have byte : sliceByte s s.opIdx s.byteIdx = bs[s.byteIdx]? := by
      simp only [sliceByte, show s.ops[s.opIdx]? = some (.write bs) from here]
    rw [List.getElem?_eq_getElem more] at byte
    exact ⟨_, by rw [txWrite, byte]⟩

/-- RX_READ has its place where a Read is current and `byte_idx` is in its buffer (R66). -/
theorem rxRead_completes {s : State} {op : Operation} (here : currentOp s = some op) (read : op.dir = .read)
    (more : s.byteIdx < op.length) : ∃ t, rxRead s = .next t := by
  cases op with
  | write bs => cases read
  | read n =>
    have room : inReadBuffer s s.opIdx s.byteIdx = true := by
      simp only [inReadBuffer, show s.ops[s.opIdx]? = some (.read n) from here]
      exact decide_eq_true more
    rw [rxRead, if_pos room]
    exact byteDone_completes (s := receiveByte s) here

/-- No control point stops in a state that meets the invariant (R270). -/
theorem Inv.completes {s : State} (h : Inv s) : ∃ t, runPoint s.ctl s = .next t := by
  by_cases bus : inBusCommand s.ctl
  · obtain ⟨op, ⟨here, -⟩, place⟩ := h.place bus
    have named := h.named
    cases hc : s.ctl <;> rw [hc] at named
    case reserved1C | reserved1D | reserved1E | reserved1F => cases named
    case idlePoll | sreqPoll | startedPoll | addrPoll | txePoll | txcPoll | rxPoll =>
      exact pollPoint_completes _ here
    case idleClear | sreqClear | startedClear | addrClear | txeClear | txcClear | rxClear =>
      exact clearPoint_completes _ here
    case addrAckclr => exact ackClear_completes here (h.ackParam hc)
    case txWrite =>
      obtain ⟨write, more⟩ := (placeOk_send (by rw [hc]; decide)).1 place
      exact txWrite_completes here write more
    case rxRead =>
      obtain ⟨read, more⟩ := (placeOk_recv (by rw [hc]; decide)).1 place
      exact rxRead_completes here read more
    all_goals exact ⟨_, rfl⟩
  · rcases rest_or_new_of_not_bus bus with rest | new
    · exact ⟨s, by rw [rest]; rfl⟩
    · simp only [newPoints, List.mem_cons, List.not_mem_nil, or_false] at new
      rcases new with hc | hc | hc <;> rw [hc] <;> exact ⟨_, rfl⟩

/-- A control point of a bus command appends exactly one access. -/
theorem BusCase.events {s t : State} (h : BusCase s t) : ∃ es, t.hist = s.hist ++ es ∧ es.countP isAccess = 1 := by
  obtain ⟨u, access, silent⟩ := h.access
  obtain ⟨es, hu, one⟩ := access.events
  obtain ⟨rs, ht, none⟩ := silent.events
  exact ⟨es ++ rs, by rw [ht, hu, List.append_assoc], by rw [List.countP_append, one, none]⟩

/-- The events of the control point in `ctl` (R24). -/
theorem runPoint_events {s t : State} (h : runPoint s.ctl s = .next t) :
    ∃ es, t.hist = s.hist ++ es ∧ es.countP isAccess = (if s.ctl = .rest then 0 else 1) := by
  by_cases bus : inBusCommand s.ctl
  · rw [if_neg bus.1]
    exact (bus_case bus h).events
  · rcases rest_or_new_of_not_bus bus with hc | new
    · rw [hc] at h ⊢
      cases h
      exact ⟨[], (List.append_nil _).symm, rfl⟩
    · simp only [newPoints, List.mem_cons, List.not_mem_nil, or_false] at new
      rcases new with hc | hc | hc <;> rw [hc] at h ⊢ <;> cases h
      · exact ⟨[.collabClockEnable], rfl, rfl⟩
      · exact ⟨[.collabClockReset], rfl, rfl⟩
      · exact ⟨[.wrCfg _, .res .ok], List.append_assoc _ _ _, rfl⟩

/-- Settles O39: the invariant lets the point complete, and its events hold one access. -/
theorem everyPointCompletesWithOneAccess : Obligations.EveryPointCompletesWithOneAccess := by
  intro s h
  obtain ⟨t, go⟩ := h.completes
  obtain ⟨es, hist, count⟩ := runPoint_events go
  exact ⟨t, es, (exec_pointInstr _ s).trans go, hist, count⟩

end Sys2Proof.Machine
end

section
/-! The display packing (O7), the reset state (O9, O48) and clearing a fault flag (O25). -/

namespace Sys2Proof.Machine

/-! ## The display packing -/

@[simp] theorem getElem_bitAt (n i : Nat) (b : Bool) (hi : i < 16) :
    (bitAt n b)[i] = (b && decide (n = i)) := by
  cases b with
  | false => simp [bitAt]
  | true =>
    rw [← BitVec.getLsbD_eq_getElem]
    simp only [bitAt, if_true, BitVec.getLsbD_ofNat, hi, decide_true, Nat.testBit_two_pow, Bool.true_and]

theorem unpackStatus_packStatus (s : Status) : unpackStatus (packStatus s) = s := by
  cases s
  simp [unpackStatus, packStatus]

theorem unpackStatus2_packStatus2 (r : Status2) : unpackStatus2 (packStatus2 r) = r := by
  cases r
  simp [unpackStatus2, packStatus2]

theorem unpackCtrl_packCtrl (c : Ctrl) : unpackCtrl (packCtrl c) = c := by
  cases c
  simp [unpackCtrl, packCtrl]

theorem packStatus_unpackStatus (w : Word) : packStatus (unpackStatus w) = w &&& 0x5FC7#16 := by
  apply BitVec.eq_of_getElem_eq
  intro i hi
  interval_cases i <;> simp [packStatus, unpackStatus]

theorem packStatus2_unpackStatus2 (w : Word) : packStatus2 (unpackStatus2 w) = w &&& 0x0003#16 := by
  apply BitVec.eq_of_getElem_eq
  intro i hi
  interval_cases i <;> simp [packStatus2, unpackStatus2]

theorem packCtrl_unpackCtrl (w : Word) : packCtrl (unpackCtrl w) = w &&& 0x0700#16 := by
  apply BitVec.eq_of_getElem_eq
  intro i hi
  interval_cases i <;> simp [packCtrl, unpackCtrl]

/-- Settles O7, group by group and bit by bit. -/
theorem displayPackingKeepsTheNamedBits : Obligations.DisplayPackingKeepsTheNamedBits :=
  ⟨unpackStatus_packStatus, unpackStatus2_packStatus2, unpackCtrl_packCtrl, packStatus_unpackStatus,
    packStatus2_unpackStatus2, packCtrl_unpackCtrl⟩

/-! ## Reset -/

/-- With nothing on the command stream the block waits (R44): only the environment moves. -/
theorem step_reset : step State.reset = .next (envStep State.reset) := step_at_rest rfl

/-- Settles O9: the block waits at REST for a command that is not there. -/
theorem resetRestsUnbound : Obligations.ResetRestsUnbound :=
  ⟨rfl, rfl, rfl, rfl, reset_memory_wf, fun _ => rfl, _, step_reset, rfl, rfl, rfl, rfl⟩

theorem historyOk_nil : HistoryOk [] where
  clears j f h := by cases h
  errors j e h := by cases h
  results j r e h := by cases h
  noBus := List.not_mem_nil

/-- With `ctl` at REST, no result and an empty history the conditions on a command in progress or ended say nothing. -/
theorem stopCount_reset : StopCount State.reset where
  running h := absurd rfl h
  armedLast h := absurd rfl h
  succeeded _ h := by cases h
  ended _ := Nat.zero_le _

theorem segmentOk_reset : SegmentOk State.reset where
  progress h := absurd rfl h.1
  complete _ h := by cases h
  paired k i b h := by cases h

/-- Settles O48: at REST with an empty history each part holds of nothing. -/
theorem invariantHoldsAtReset : Obligations.InvariantHoldsAtReset := by
  have inv : Inv State.reset := .ofRest rfl reset_memory_wf (fun bound => by cases bound) (by decide)
  have ends : HistoryEnds State.reset := fun e last => by cases last
  have starts : StartsAfterIdle State.reset.hist := fun j start => by cases start
  have ready : StartReady State.reset := ⟨fun here => (by cases here), fun here => (by cases here)⟩
  exact ⟨inv, historyOk_nil, ends, starts, ready, stopCount_reset, segmentOk_reset⟩

/-! ## Clearing a fault flag -/

theorem faultBit_clearFlag_same (f : FaultFlag) (s : Status) : faultBit (clearFlag f s) f = false := by
  cases f <;> rfl

theorem faultBit_clearFlag_other {f g : FaultFlag} (s : Status) (h : g ≠ f) :
    faultBit (clearFlag f s) g = faultBit s g := by
  cases f <;> cases g <;> simp_all [faultBit, clearFlag]

theorem awaitedFlag_clearFlag (f : FaultFlag) (s : Status) (w : Wait) :
    awaitedFlag (clearFlag f s) w = awaitedFlag s w := by
  cases f <;> cases w <;> rfl

theorem clearFlag_of_faultBit_false {f : FaultFlag} {s : Status} (h : faultBit s f = false) : clearFlag f s = s := by
  cases s
  cases f <;> simp_all [faultBit, clearFlag]

/-- Settles O25: by the six flags. -/
theorem clearingOneFlagLeavesTheOthers : Obligations.ClearingOneFlagLeavesTheOthers := fun f s =>
  ⟨faultBit_clearFlag_same f s, fun _ => faultBit_clearFlag_other s, awaitedFlag_clearFlag f s,
    clearFlag_of_faultBit_false⟩

end Sys2Proof.Machine
end

section
/-! The block reads neither `cmd` nor the history (R70): every operation commutes with putting another history before
the events of a state and another command kind into it, and so does a step (O56). -/

namespace Sys2Proof.Machine

/-- `s` with the command kind `k`, and with its events behind the history `h`. -/
def behind (h : List Event) (k : CmdKind) (s : State) : State := { s with cmd := k, hist := h ++ s.hist }

/-- A change of the next state; a stop stays as it is. -/
def mapNext (f : State → State) : Ans → Ans
  | .next s => .next (f s)
  | .fault r => .fault r
  | .refused r => .refused r

@[simp] theorem mapNext_next (f : State → State) (s : State) : mapNext f (.next s) = .next (f s) := rfl
@[simp] theorem mapNext_fault (f : State → State) (r : Fault) : mapNext f (.fault r) = .fault r := rfl
@[simp] theorem mapNext_refused (f : State → State) (r : Refusal) : mapNext f (.refused r) = .refused r := rfl

theorem mapNext_ite (f : State → State) (c : Prop) [Decidable c] (a b : Ans) :
    mapNext f (if c then a else b) = if c then mapNext f a else mapNext f b :=
  apply_ite (mapNext f) c a b

/-- States that agree in everything but `cmd` and the history are one state behind two histories. -/
theorem SameButCmd.eq_behind {s t : State} (same : SameButCmd s t) :
    t = behind t.hist t.cmd { s with hist := [] } := by
  simp only [behind, List.append_nil]
  exact same.symm

theorem sameButCmd_refl (s : State) : SameButCmd s s := rfl

/-- One answer behind two histories is the same step. -/
theorem sameSteps_behind (s t : State) (k k' : CmdKind) (a : Ans) :
    SameSteps s t (mapNext (behind s.hist k) a) (mapNext (behind t.hist k') a) := by
  cases a with
  | next u => exact ⟨rfl, u.hist, rfl, rfl⟩
  | fault f => rfl
  | refused r => rfl

variable (h : List Event) (k : CmdKind) (s : State)

/-! ## The primitives -/

@[simp] theorem behind_handle : (behind h k s).handle = s.handle := rfl
@[simp] theorem behind_cfg : (behind h k s).cfg = s.cfg := rfl
@[simp] theorem behind_ctl : (behind h k s).ctl = s.ctl := rfl
@[simp] theorem behind_opIdx : (behind h k s).opIdx = s.opIdx := rfl
@[simp] theorem behind_byteIdx : (behind h k s).byteIdx = s.byteIdx := rfl
@[simp] theorem behind_snap : (behind h k s).snap = s.snap := rfl
@[simp] theorem behind_pendFlag : (behind h k s).pendFlag = s.pendFlag := rfl
@[simp] theorem behind_regs : (behind h k s).regs = s.regs := rfl
@[simp] theorem behind_params : (behind h k s).params = s.params := rfl

theorem goto_behind (p : Point) : goto p (behind h k s) = behind h k (goto p s) := rfl

theorem holdFault_behind (w : Wait) (f : FaultFlag) : holdFault w f (behind h k s) = behind h k (holdFault w f s) := rfl

theorem advanceOp_behind (d : Dir) : advanceOp d (behind h k s) = behind h k (advanceOp d s) := rfl

theorem turnBus_behind (d : Dir) : turnBus d (behind h k s) = behind h k (turnBus d s) := rfl

theorem log_behind (e : Event) : log e (behind h k s) = behind h k (log e s) := by
  simp [log, behind]

theorem modCtrl_behind (a : CtrlAssign) : modCtrl a (behind h k s) = behind h k (modCtrl a s) := by
  simp [modCtrl, behind]

theorem regClear_behind (f : FaultFlag) : regClear f (behind h k s) = behind h k (regClear f s) := by
  simp [regClear, behind]

theorem writeData_behind (b : Byte) : writeData b (behind h k s) = behind h k (writeData b s) := by
  simp [writeData, behind]

theorem writeCfg_behind (c : Timing) : writeCfg c (behind h k s) = behind h k (writeCfg c s) := by
  simp [writeCfg, behind]

theorem readStatus_behind : readStatus (behind h k s) = behind h k (readStatus s) := by
  simp [readStatus, behind]

theorem readStatus2_behind : readStatus2 (behind h k s) = behind h k (readStatus2 s) := log_behind h k s _

theorem readStopPending_behind : readStopPending (behind h k s) = behind h k (readStopPending s) := log_behind h k s _

theorem receiveByte_behind : receiveByte (behind h k s) = behind h k (receiveByte s) := by
  simp [receiveByte, behind]

theorem transmitByte_behind (b : Byte) : transmitByte b (behind h k s) = behind h k (transmitByte b s) := by
  simp [transmitByte, writeData_behind, log_behind]

theorem clockReset_behind : clockReset (behind h k s) = behind h k (clockReset s) := by
  simp [clockReset, behind]

theorem deliver_behind (r : Result) : deliver r (behind h k s) = behind h k (deliver r s) := by
  simp [deliver, behind]

theorem raise_behind (e : Err) : raise e (behind h k s) = behind h k (raise e s) := deliver_behind h k s _

theorem finishOk_behind : finishOk (behind h k s) = behind h k (finishOk s) :=
  deliver_behind h k { s with txn := { s.txn with done := true } } .ok

/-! ## The control points -/

theorem dispatchOn_behind (ops : List Operation) :
    ∀ s : State, dispatchOn ops (behind h k s) = mapNext (behind h k) (dispatchOn ops s) := by
  induction ops with
  | nil => intro s; rfl
  | cons op later ih =>
    intro s
    cases later with
    | nil =>
      cases op with
      | write bs =>
        simp only [dispatchOn, mapNext_ite, behind_byteIdx, goto_behind]
        rfl
      | read n =>
        simp only [dispatchOn, mapNext_ite, behind_byteIdx, goto_behind, raise_behind, finishOk_behind]
        rfl
    | cons op' rest =>
      simp only [dispatchOn_cons_cons, mapNext_ite, behind_byteIdx, goto_behind, advanceOp_behind, turnBus_behind, ih]
      rfl

theorem dispatch_behind : dispatch (behind h k s) = mapNext (behind h k) (dispatch s) := dispatchOn_behind h k _ s

theorem byteDone_behind : byteDone (behind h k s) = mapNext (behind h k) (byteDone s) :=
  dispatch_behind h k { s with byteIdx := s.byteIdx + 1 }

theorem waitTest_behind (w : Wait) : waitTest w (behind h k s) = mapNext (behind h k) (waitTest w s) := by
  cases w with
  | idle | sreq | started | txe | rx => rfl
  | addr =>
    simp only [waitTest, mapNext_ite, behind_snap, behind_params, dispatch_behind, goto_behind]
    rfl
  | txc =>
    simp only [waitTest, mapNext_ite, behind_snap, byteDone_behind, goto_behind]
    rfl

theorem pollPoint_behind (w : Wait) : pollPoint w (behind h k s) = mapNext (behind h k) (pollPoint w s) := by
  simp only [pollPoint, behind_params, behind_regs, readStatus_behind, waitTest_behind, holdFault_behind]
  split <;> rfl

theorem clearPoint_behind (w : Wait) : clearPoint w (behind h k s) = mapNext (behind h k) (clearPoint w s) := by
  simp only [clearPoint, behind_pendFlag, regClear_behind, waitTest_behind, raise_behind]
  split <;> rfl

theorem ackClear_behind : ackClear (behind h k s) = mapNext (behind h k) (ackClear s) := by
  simp only [ackClear, mapNext_ite, behind_params, readStatus2_behind, dispatch_behind]
  rfl

theorem txWrite_behind : txWrite (behind h k s) = mapNext (behind h k) (txWrite s) := by
  have byte : sliceByte (behind h k s) s.opIdx s.byteIdx = sliceByte s s.opIdx s.byteIdx := rfl
  simp only [txWrite, behind_opIdx, behind_byteIdx, byte, transmitByte_behind, goto_behind]
  split <;> rfl

theorem rxRead_behind : rxRead (behind h k s) = mapNext (behind h k) (rxRead s) := by
  have room : inReadBuffer (behind h k s) s.opIdx s.byteIdx = inReadBuffer s s.opIdx s.byteIdx := rfl
  simp only [rxRead, behind_opIdx, behind_byteIdx, room, receiveByte_behind, byteDone_behind]
  split <;> rfl

theorem newApply_behind : newApply (behind h k s) = behind h k (newApply s) := by
  simp only [newApply, behind_cfg, writeCfg_behind]
  exact deliver_behind h k { writeCfg (Config.timing s.cfg.mode s.cfg.clockHz) s with handle := .bound } .ok

/-- A point that makes one access and names its successor. -/
theorem next_goto_behind {p : Point} {u v : State} (access : u = behind h k v) :
    (.next (goto p u) : Ans) = mapNext (behind h k) (.next (goto p v)) := by
  rw [access]
  rfl

/-- The action of a control point does not read `cmd` or the history, and appends to the history only. -/
theorem runPoint_behind (p : Point) : runPoint p (behind h k s) = mapNext (behind h k) (runPoint p s) := by
  cases p with
  | rest | reserved1C | reserved1D | reserved1E | reserved1F => rfl
  | idlePoll | sreqPoll | startedPoll | addrPoll | txePoll | txcPoll | rxPoll => exact pollPoint_behind h k s _
  | idleClear | sreqClear | startedClear | addrClear | txeClear | txcClear | rxClear => exact clearPoint_behind h k s _
  | txWrite => exact txWrite_behind h k s
  | rxRead => exact rxRead_behind h k s
  | addrAckclr => exact ackClear_behind h k s
  | newEnable => exact next_goto_behind h k (log_behind h k s _)
  | newReset => exact next_goto_behind h k (clockReset_behind h k s)
  | newApply => exact congrArg Host.Outcome.next (newApply_behind h k s)
  | idleCond => exact next_goto_behind h k (readStopPending_behind h k s)
  | sreqAckEn | sreqStart | armLast => exact next_goto_behind h k (modCtrl_behind h k s _)
  | startedCond => exact next_goto_behind h k (readStatus2_behind h k s)
  | addrWrite => exact next_goto_behind h k (writeData_behind h k s _)
  | genStop => simp [runPoint, genStop, modCtrl_behind, finishOk_behind]

/-! ## The commands -/

/-- Accepting a command writes `cmd` anew: nothing of the old one is left (R23). -/
theorem accept_behind (c : Instr) (kind : CmdKind) :
    accept c kind (behind h k s) = behind h kind (accept c kind s) := by
  simp [accept, behind]

theorem latchOps_behind (a : Byte) (ops : List Operation) :
    latchOps a ops (behind h k s) = behind h k (latchOps a ops s) := rfl

theorem startBus_behind (a : Byte) (ops : List Operation) :
    startBus a ops (behind h k s) = behind h k (startBus a ops s) := by
  cases ops with
  | nil => exact finishOk_behind h k s
  | cons op rest => rfl

theorem whenAccepted_behind (need : Handle) (kind : CmdKind) (t : State) :
    whenAccepted need (behind h k s) (behind h kind t) = mapNext (behind h kind) (whenAccepted need s t) := by
  simp only [whenAccepted, mapNext_ite, behind_handle, behind_ctl]
  rfl

theorem acceptBus_behind (c : Instr) (kind : CmdKind) (a : Byte) (ops : List Operation) :
    acceptBus c kind a ops (behind h k s) = mapNext (behind h kind) (acceptBus c kind a ops s) := by
  simp only [acceptBus, accept_behind, latchOps_behind, startBus_behind, whenAccepted_behind]
  split <;> rfl

theorem execNew_behind (m : Mode) (clk : Nat) (al : Bool) :
    execNew m clk al (behind h k s) = mapNext (behind h .new) (execNew m clk al s) := by
  have latched := congrArg (fun u : State => { u with cfg := ⟨m, clk, al⟩, ctl := .newEnable })
    (accept_behind h k s (.new m clk al) .new)
  simp only [execNew, latched]
  split
  · rfl
  · exact whenAccepted_behind h k s _ .new { accept (.new m clk al) .new s with cfg := ⟨m, clk, al⟩, ctl := .newEnable }

theorem execRead_behind (a : Byte) (n : Nat) :
    execRead a n (behind h k s) = mapNext (behind h .read) (execRead a n s) := by
  simp only [execRead, accept_behind, latchOps_behind, startBus_behind, raise_behind, whenAccepted_behind,
    acceptBus_behind]
  split <;> [split <;> rfl; rfl]

theorem execRelease_behind : execRelease (behind h k s) = mapNext (behind h .release) (execRelease s) := by
  have ended := deliver_behind h .release { accept .release .release s with handle := .unbound } .ok
  simp only [execRelease, accept_behind]
  exact (congrArg _ ended).trans (whenAccepted_behind h k s _ .release _)

/-- The kind that an accepted command writes into `cmd` does not depend on the state. -/
theorem exec_command_behind {i : Instr} (command : i.format = .h) :
    ∃ kind, ∀ h k s, exec i (behind h k s) = mapNext (behind h kind) (exec i s) := by
  cases i with
  | new m clk al => exact ⟨.new, fun h k s => execNew_behind h k s m clk al⟩
  | read a n => exact ⟨.read, fun h k s => execRead_behind h k s a n⟩
  | write a bs => exact ⟨.write, fun h k s => acceptBus_behind h k s _ .write a _⟩
  | writeRead a bs n => exact ⟨.writeRead, fun h k s => acceptBus_behind h k s _ .writeRead a _⟩
  | transaction a ops => exact ⟨.transaction, fun h k s => acceptBus_behind h k s _ .transaction a ops⟩
  | release => exact ⟨.release, execRelease_behind⟩
  | reservedOpc0 _ | reservedOpc7 _ | reservedOpc8 _ | reservedOpc9 _ | reservedOpcA _
  | reservedOpcB _ | reservedOpcC _ | reservedOpcD _ | reservedOpcE _ | reservedOpcF _ =>
    exact ⟨.new, fun _ _ _ => rfl⟩
  | _ => cases command

/-! ## The step -/

/-- The environment reads neither `cmd` nor the history. -/
theorem settle_behind (a : Ans) : settle (mapNext (behind h k) a) = mapNext (behind h k) (settle a) := by
  cases a <;> rfl

/-- The same instruction is fetched. -/
theorem fetch_behind : fetch (behind h k s) = (fetch s).map (Prod.map id (behind h k)) := by
  by_cases rest : s.ctl = .rest
  · have stream : decodeCommand (behind h k s).cmdIn (behind h k s).wdata = decodeCommand s.cmdIn s.wdata := rfl
    simp only [fetch, behind_ctl, rest, if_true, stream]
    cases decodeCommand s.cmdIn s.wdata <;> rfl
  · simp only [fetch, behind_ctl, rest, if_false]
    rfl

/-- A step takes a command of the stream or runs a control point (R24, R210). -/
theorem fetch_ok {s t : State} {i : Instr} (fetched : fetch s = .ok (i, t)) :
    i.format = .h ∨ ∃ p, i = pointInstr p := by
  unfold fetch at fetched
  split at fetched
  · split at fetched
    · next spelled => cases fetched; exact .inl (decodeCommand_format spelled)
    · cases fetched; exact .inr ⟨.rest, rfl⟩
    · cases fetched
  · cases fetched; exact .inr ⟨_, rfl⟩

/-- What is fetched keeps `cmd`, or writes it anew. -/
theorem exec_fetched_behind {s t : State} {i : Instr} (fetched : fetch s = .ok (i, t)) :
    ∃ kindAfter : CmdKind → CmdKind, ∀ h k, exec i (behind h k t) = mapNext (behind h (kindAfter k)) (exec i t) := by
  rcases fetch_ok fetched with command | ⟨p, rfl⟩
  · obtain ⟨kind, run⟩ := exec_command_behind command
    exact ⟨fun _ => kind, fun h k => run h k t⟩
  · refine ⟨id, fun h k => ?_⟩
    rw [exec_pointInstr, exec_pointInstr]
    exact runPoint_behind h k t p

/-- A step behind another history is the same step; its `cmd` is the one before, or that of the command accepted. -/
theorem step_behind (s : State) :
    ∃ kindAfter : CmdKind → CmdKind, ∀ h k, step (behind h k s) = mapNext (behind h (kindAfter k)) (step s) := by
  cases fetched : fetch s with
  | error r => exact ⟨id, fun h k => by simp [step, fetch_behind, fetched, Except.map]⟩
  | ok next =>
    obtain ⟨kindAfter, run⟩ := exec_fetched_behind fetched
    exact ⟨kindAfter, fun h k => by simp [step, fetch_behind, fetched, Except.map, run, settle_behind]⟩

/-- Settles O56: both states are one state behind two histories. -/
theorem stepsIgnoreCommandKindAndHistory : Obligations.StepsIgnoreCommandKindAndHistory := by
  intro s t same
  obtain ⟨kindAfter, run⟩ := step_behind { s with hist := [] }
  have left : step s = _ := (congrArg step (sameButCmd_refl s).eq_behind).trans (run _ _)
  have right : step t = _ := (congrArg step same.eq_behind).trans (run _ _)
  rw [left, right]
  exact sameSteps_behind s t _ _ _

end Sys2Proof.Machine
end

section
/-! The environment's move (O10) and the host buffer space (O32, O33). -/

namespace Sys2Proof.Machine

/-! ## The environment's move -/

/-- Once the block has the handle or a command in progress, the registers are not the host's (R303). -/
theorem hostOwns_false {s : State} (taken : s.handle = .bound ∨ s.ctl ≠ .rest) : hostOwns s = false := by
  rcases taken with bound | away
  · simp [hostOwns, bound]
  · simp [hostOwns, away]

/-- While the host does not own the registers, a move takes requests back only and leaves what the block wrote (R63). -/
theorem moveRegs_not_owned (m : EnvMove) (r : Controller) :
    moveRegs false m r = { r with
      ctrl := { r.ctrl with
        startReq := r.ctrl.startReq && !m.takeStart, stopReq := r.ctrl.stopReq && !m.takeStop }
      stopPending := m.stopPending, sts := m.sts, sts2 := m.sts2, rxData := m.rxData } := rfl

/-- The move with the given answers that does nothing else. -/
def answeringMove (v : Status) (r : Status2) (p : Bool) (b : Byte) : EnvMove where
  stopPending := p
  sts := v
  sts2 := r
  rxData := b
  takeStart := false
  takeStop := false
  owner := none

/-- Settles O10: by the fields of a move; the answers are those of the move that gives them. -/
theorem environmentMovesOnlyTheController : Obligations.EnvironmentMovesOnlyTheController := by
  refine ⟨fun s => rfl, fun s taken => ?_, fun s rest v r p b => ⟨answeringMove v r p b, rfl, rfl, rfl, rfl⟩⟩
  rw [envStep_regs, hostOwns_false taken, moveRegs_not_owned]
  exact ⟨rfl, rfl, rfl, Bool.and_elim_left, Bool.and_elim_left⟩

/-! ## The host buffer space -/

/-- Where there is no byte to send there is no slice byte (R66). -/
theorem sliceByte_none {s : State} {j i : Nat} (no : ∀ bs b, s.ops[j]? = some (.write bs) → bs[i]? ≠ some b) :
    sliceByte s j i = none := by
  unfold sliceByte
  split
  · next bs here => exact Option.eq_none_iff_forall_ne_some.2 fun b => no bs b here
  · rfl

/-- Where there is no room for a byte received the index is outside the buffer (R66). -/
theorem inReadBuffer_false {s : State} {j i : Nat} (no : ∀ n, s.ops[j]? = some (.read n) → n ≤ i) :
    inReadBuffer s j i = false := by
  unfold inReadBuffer
  split
  · next n here => exact decide_eq_false (Nat.not_lt.2 (no n here))
  · rfl

/-- Settles O32: each point asks for its byte before the access. -/
theorem accessesOutsideTheOperationStop : Obligations.AccessesOutsideTheOperationStop := by
  refine ⟨fun s no => ?_, fun s no => ?_⟩
  · simp only [exec, execCtlTxWrite, txWrite, sliceByte_none no]
  · simp only [exec, execCtlRxRead, rxRead, inReadBuffer_false no]
    rfl

/-- Settles O33: pairing is one-to-one. -/
theorem bufferBytesHaveTheirOwnAddresses : Obligations.BufferBytesHaveTheirOwnAddresses :=
  fun _ _ _ _ _ _ => bufAddr_inj

end Sys2Proof.Machine
end

section
/-! The codec of format H (R90 to R96): the words and bytes of a command are decoded to it whatever follows (O1), and a
stream that is decoded begins with the words and bytes of what it is decoded to (O2). -/

namespace Sys2Proof

/-! ## The checks on the words of a command -/

theorem wellFormed_iff (i : Instr) : WellFormed i = true ↔ i.failing = none := beq_iff_eq

/-- The only check that `addrCheck` names is `addr7`. -/
theorem addrCheck_ne_opcKnown (a : Byte) : addrCheck a ≠ some .opcKnown := by
  unfold addrCheck
  split <;> simp

theorem addrCheck_of_passes {i : Instr} {a : Byte} (check : i.failing = addrCheck a)
    (passes : WellFormed i = true ∨ i.failing = some .opcKnown) : addrCheck a = none := by
  rw [wellFormed_iff, check] at passes
  exact passes.resolve_right (addrCheck_ne_opcKnown a)

theorem failing_new_eq_none_iff (m : Mode) (clk : Nat) (al : Bool) :
    (Instr.new m clk al).failing = none ↔ m.frequency ≠ 0 := by
  simp [Instr.failing]

theorem frequency_ne_zero_of_passes {m : Mode} {clk : Nat} {al : Bool}
    (passes : WellFormed (.new m clk al) = true ∨ (Instr.new m clk al).failing = some .opcKnown) :
    m.frequency ≠ 0 := by
  rw [wellFormed_iff] at passes
  rcases passes with none | known
  · exact (failing_new_eq_none_iff m clk al).1 none
  · intro zero
    simp [Instr.failing, zero] at known

/-! ## From a command to its words -/

theorem decodeAddressed_headerWord {a : Byte} (o : BitVec 4) (next : Byte → Decoded) (ok : addrCheck a = none) :
    decodeAddressed (headerWord o a) next = next a := by
  simp [decodeAddressed, headerZero_headerWord, headerAddr_headerWord, ok]

theorem decodeUnaddressed_headerWord (o : BitVec 4) (next : Decoded) :
    decodeUnaddressed (headerWord o 0) next = next := by
  simp [decodeUnaddressed, headerZero_headerWord, headerAddr_headerWord]

theorem decodeCommand_new (ws : List Word) (bs : List Byte) :
    decodeCommand (headerWord 1 0 :: ws) bs = decodeNew ws bs := by
  simp only [decodeCommand, headerOpc_headerWord]
  exact decodeUnaddressed_headerWord 1 _

theorem decodeCommand_read {a : Byte} (ok : addrCheck a = none) (ws : List Word) (bs : List Byte) :
    decodeCommand (headerWord 2 a :: ws) bs = decodeRead a ws bs := by
  simp only [decodeCommand, headerOpc_headerWord]
  exact decodeAddressed_headerWord 2 _ ok

theorem decodeCommand_write {a : Byte} (ok : addrCheck a = none) (ws : List Word) (bs : List Byte) :
    decodeCommand (headerWord 3 a :: ws) bs = decodeWrite a ws bs := by
  simp only [decodeCommand, headerOpc_headerWord]
  exact decodeAddressed_headerWord 3 _ ok

theorem decodeCommand_writeRead {a : Byte} (ok : addrCheck a = none) (ws : List Word) (bs : List Byte) :
    decodeCommand (headerWord 4 a :: ws) bs = decodeWriteRead a ws bs := by
  simp only [decodeCommand, headerOpc_headerWord]
  exact decodeAddressed_headerWord 4 _ ok

theorem decodeCommand_transaction {a : Byte} (ok : addrCheck a = none) (ws : List Word) (bs : List Byte) :
    decodeCommand (headerWord 5 a :: ws) bs = decodeTransaction a ws bs := by
  simp only [decodeCommand, headerOpc_headerWord]
  exact decodeAddressed_headerWord 5 _ ok

theorem decodeCommand_release (ws : List Word) (bs : List Byte) :
    decodeCommand (headerWord 6 0 :: ws) bs = .done .release ws bs := by
  simp only [decodeCommand, headerOpc_headerWord]
  exact decodeUnaddressed_headerWord 6 _

theorem decodeNew_words {m : Mode} {clk : Nat} (al : Bool) (ws : List Word) (bs : List Byte)
    (positive : m.frequency ≠ 0) (frequency : m.frequency < 2 ^ 32) (clock : clk < 2 ^ 32) :
    decodeNew (modeWordBits m.kind m.duty al :: splitWords m.frequency ++ splitWords clk ++ ws) bs =
      .done (.new m clk al) ws bs := by
  obtain ⟨zero, alert, mode⟩ := modeWordBits_read m al
  simp only [splitWords, List.cons_append, List.nil_append, decodeNew, zero, if_true, joinWords_split frequency,
    joinWords_split clock, positive, if_false, mode, alert]

theorem decodeRead_words (a : Byte) {n : Nat} (ws : List Word) (bs : List Byte) (len : n < 2 ^ 15) :
    decodeRead a (descWord .read n :: ws) bs = .done (.read a n) ws bs := by
  simp only [decodeRead, descDir_descWord, descLen_descWord _ len]

theorem decodeWrite_words (a : Byte) {b : List Byte} (ws : List Word) (bs : List Byte) (len : b.length < 2 ^ 15) :
    decodeWrite a (descWord .write b.length :: ws) (b ++ bs) = .done (.write a b) ws bs := by
  simp only [decodeWrite, descDir_descWord, descLen_descWord _ len, takeBytes_append]

theorem decodeWriteRead_words (a : Byte) {b : List Byte} {n : Nat} (ws : List Word) (bs : List Byte)
    (sent : b.length < 2 ^ 15) (len : n < 2 ^ 15) :
    decodeWriteRead a (descWord .write b.length :: descWord .read n :: ws) (b ++ bs) =
      .done (.writeRead a b n) ws bs := by
  simp only [decodeWriteRead, descDir_descWord, descLen_descWord _ sent, descLen_descWord _ len, takeBytes_append]

theorem decodeTransaction_words (a : Byte) {ops : List Operation} (ws : List Word) (bs : List Byte)
    (count : ops.length < 2 ^ 16) (fits : ops.all Operation.fits = true) :
    decodeTransaction a (BitVec.ofNat 16 ops.length :: ops.map Operation.word ++ ws)
      (ops.flatMap Operation.wdata ++ bs) = .done (.transaction a ops) ws bs := by
  simp only [List.cons_append, decodeTransaction, BitVec.toNat_ofNat, Nat.mod_eq_of_lt count,
    takeOperations_append ops ws bs fits]

/-- Settles O1: command by command, from its header and the words behind it; a reserved header is one word. -/
theorem decodeUndoesEncodeOnCommands : Obligations.DecodeUndoesEncodeOnCommands := by
  intro i ws bs format passes fits
  cases i with
  | new m clk al =>
    obtain ⟨frequency, clock⟩ : m.frequency < 2 ^ 32 ∧ clk < 2 ^ 32 := by simpa [Fits] using fits
    exact (decodeCommand_new _ _).trans
      (decodeNew_words al ws bs (frequency_ne_zero_of_passes passes) frequency clock)
  | read a n =>
    exact (decodeCommand_read (addrCheck_of_passes rfl passes) _ _).trans
      (decodeRead_words a ws bs (of_decide_eq_true fits))
  | write a b =>
    exact (decodeCommand_write (addrCheck_of_passes rfl passes) _ _).trans
      (decodeWrite_words a ws bs (of_decide_eq_true fits))
  | writeRead a b n =>
    obtain ⟨sent, len⟩ : b.length < 2 ^ 15 ∧ n < 2 ^ 15 := by simpa [Fits] using fits
    exact (decodeCommand_writeRead (addrCheck_of_passes rfl passes) _ _).trans
      (decodeWriteRead_words a ws bs sent len)
  | transaction a ops =>
    obtain ⟨count, each⟩ := (Bool.and_eq_true _ _).mp fits
    exact (decodeCommand_transaction (addrCheck_of_passes rfl passes) _ _).trans
      (decodeTransaction_words a ws bs (of_decide_eq_true count) each)
  | release => exact decodeCommand_release ws bs
  | reservedOpc0 low | reservedOpc7 low | reservedOpc8 low | reservedOpc9 low | reservedOpcA low
  | reservedOpcB low | reservedOpcC low | reservedOpcD low | reservedOpcE low | reservedOpcF low =>
    simp [encodeWords, encodeBytes, encode, decodeCommand, headerOpc_reservedWord, headerLow_reservedWord]
  | _ => cases format

/-! ## From a stream to the command it spells -/

/-- The streams `ws` and `bs` begin with the words and bytes of `i`, a command that passes the checks on its own words
or a reserved header, and go on with `ws'` and `bs'`. -/
structure Spells (i : Instr) (ws ws' : List Word) (bs bs' : List Byte) : Prop where
  words : ws = encodeWords i ++ ws'
  bytes : bs = encodeBytes i ++ bs'
  fits : Fits i = true
  passes : WellFormed i = true ∨ i.failing = some .opcKnown

theorem eq_headerWord {w : Word} {n : Nat} (opcode : (headerOpc w).toNat = n) (zero : headerZero w = 0) :
    w = headerWord (BitVec.ofNat 4 n) (headerAddr w) := by
  subst opcode
  simpa using (headerWord_of_headerZero zero).symm

theorem eq_reservedWord {w : Word} {n : Nat} (opcode : (headerOpc w).toNat = n) :
    w = reservedWord (BitVec.ofNat 4 n) (headerLow w) := by
  subst opcode
  simpa using (reservedWord_read w).symm

theorem passes_of_addrCheck {i : Instr} {a : Byte} (check : i.failing = addrCheck a) (ok : addrCheck a = none) :
    WellFormed i = true ∨ i.failing = some .opcKnown :=
  .inl ((wellFormed_iff i).2 (check.trans ok))

section
variable {w : Word} {i : Instr} {ws ws' : List Word} {bs bs' : List Byte}

theorem decodeAddressed_done {next : Byte → Decoded} (h : decodeAddressed w next = .done i ws bs) :
    headerZero w = 0 ∧ addrCheck (headerAddr w) = none ∧ next (headerAddr w) = .done i ws bs := by
  unfold decodeAddressed at h
  split at h
  · next zero =>
    split at h
    · cases h
    · next ok => exact ⟨zero, ok, h⟩
  · cases h

theorem decodeUnaddressed_done {next : Decoded} (h : decodeUnaddressed w next = .done i ws bs) :
    headerZero w = 0 ∧ headerAddr w = 0 ∧ next = .done i ws bs := by
  unfold decodeUnaddressed at h
  split at h
  · next zero => exact ⟨zero.1, zero.2, h⟩
  · cases h

theorem frequency_modeOf (m : Word) (f : Nat) : (modeOf m f).frequency = f := by
  unfold modeOf
  split <;> rfl

theorem spells_new (h : decodeNew ws bs = .done i ws' bs') : Spells i (headerWord 1 0 :: ws) ws' bs bs' := by
  unfold decodeNew at h
  split at h
  · cases h
  · next m rest =>
    split at h
    · next zero =>
      split at h
      · next fl fh cl ch left =>
        split at h
        · cases h
        · next positive =>
          cases h
          obtain ⟨frequency, frequencyFits⟩ := splitWords_joinWords fl fh
          obtain ⟨clock, clockFits⟩ := splitWords_joinWords cl ch
          refine ⟨?_, rfl, ?_, .inl ((wellFormed_iff _).2 ?_)⟩
          · simp only [encodeWords, encode, modeWordBits_of_modeWordZero zero, frequency_modeOf, frequency, clock,
              List.cons_append, List.nil_append]
          · simp only [Fits, frequency_modeOf, frequencyFits, clockFits, decide_true, Bool.and_self]
          · rw [failing_new_eq_none_iff, frequency_modeOf]; exact positive
      · cases h
    · cases h

theorem spells_read {a : Byte} (ok : addrCheck a = none) (h : decodeRead a ws bs = .done i ws' bs') :
    Spells i (headerWord 2 a :: ws) ws' bs bs' := by
  unfold decodeRead at h
  split at h
  · cases h
  · next d left =>
    split at h
    · cases h
    · next dir =>
      cases h
      refine ⟨?_, rfl, decide_eq_true (descLen d).isLt, passes_of_addrCheck rfl ok⟩
      simp [encodeWords, encode, descWord_of_descDir dir]

theorem spells_write {a : Byte} (ok : addrCheck a = none) (h : decodeWrite a ws bs = .done i ws' bs') :
    Spells i (headerWord 3 a :: ws) ws' bs bs' := by
  unfold decodeWrite at h
  split at h
  · cases h
  · next d left =>
    split at h
    · cases h
    · next dir =>
      split at h
      · cases h
      · next taken rest take =>
        cases h
        obtain ⟨rfl, len⟩ := takeBytes_some take
        refine ⟨?_, rfl, decide_eq_true (len ▸ (descLen d).isLt), passes_of_addrCheck rfl ok⟩
        simp [encodeWords, encode, len, descWord_of_descDir dir]

theorem spells_writeRead {a : Byte} (ok : addrCheck a = none) (h : decodeWriteRead a ws bs = .done i ws' bs') :
    Spells i (headerWord 4 a :: ws) ws' bs bs' := by
  unfold decodeWriteRead at h
  split at h
  · cases h
  · next d rest =>
    split at h
    · cases h
    · next sent =>
      split at h
      · cases h
      · next e left =>
        split at h
        · cases h
        · next received =>
          split at h
          · cases h
          · next taken rest take =>
            cases h
            obtain ⟨rfl, len⟩ := takeBytes_some take
            refine ⟨?_, rfl, ?_, passes_of_addrCheck rfl ok⟩
            · simp [encodeWords, encode, len, descWord_of_descDir sent, descWord_of_descDir received]
            · simp only [Fits, len, (descLen d).isLt, (descLen e).isLt, decide_true, Bool.and_self]

theorem spells_transaction {a : Byte} (ok : addrCheck a = none) (h : decodeTransaction a ws bs = .done i ws' bs') :
    Spells i (headerWord 5 a :: ws) ws' bs bs' := by
  unfold decodeTransaction at h
  split at h
  · cases h
  · next n rest =>
    split at h
    · cases h
    · next ops left taken take =>
      cases h
      obtain ⟨count, each, rfl, rfl⟩ := takeOperations_some take
      refine ⟨?_, rfl, ?_, passes_of_addrCheck rfl ok⟩
      · simp [encodeWords, encode, count]
      · simp only [Fits, count, n.isLt, each, decide_true, Bool.and_self]

/-- By the opcode map of R100: what stands behind the header is read by the part of the decoder for its opcode. -/
theorem spells_of_decodeCommand (h : decodeCommand ws bs = .done i ws' bs') : Spells i ws ws' bs bs' := by
  cases ws with
  | nil => cases h
  | cons w rest =>
    simp only [decodeCommand] at h
    split at h
    case h_1 opcode =>
      obtain ⟨zero, addr, h⟩ := decodeUnaddressed_done h
      rw [eq_headerWord opcode zero, addr]
      exact spells_new h
    case h_2 opcode =>
      obtain ⟨zero, ok, h⟩ := decodeAddressed_done h
      rw [eq_headerWord opcode zero]
      exact spells_read ok h
    case h_3 opcode =>
      obtain ⟨zero, ok, h⟩ := decodeAddressed_done h
      rw [eq_headerWord opcode zero]
      exact spells_write ok h
    case h_4 opcode =>
      obtain ⟨zero, ok, h⟩ := decodeAddressed_done h
      rw [eq_headerWord opcode zero]
      exact spells_writeRead ok h
    case h_5 opcode =>
      obtain ⟨zero, ok, h⟩ := decodeAddressed_done h
      rw [eq_headerWord opcode zero]
      exact spells_transaction ok h
    case h_6 opcode =>
      obtain ⟨zero, addr, h⟩ := decodeUnaddressed_done h
      rw [eq_headerWord opcode zero, addr]
      cases h
      exact ⟨rfl, rfl, rfl, .inl rfl⟩
    case h_7 opcode | h_8 opcode | h_9 opcode | h_10 opcode | h_11 opcode | h_12 opcode | h_13 opcode | h_14 opcode
        | h_15 opcode =>
      cases h
      exact ⟨congrArg (· :: ws') (eq_reservedWord opcode), rfl, rfl, .inr rfl⟩
    case h_16 =>
      have opcode : (headerOpc w).toNat = 15 := by
        have := (headerOpc w).isLt
        simp only [imp_false] at *
        omega
      cases h
      exact ⟨congrArg (· :: ws') (eq_reservedWord opcode), rfl, rfl, .inr rfl⟩
end

/-- Settles O2: the parts of `Spells`, and only format H is read from the command stream. -/
theorem encodeUndoesDecodeOnCommands : Obligations.EncodeUndoesDecodeOnCommands := by
  intro i ws ws' bs bs' h
  obtain ⟨words, bytes, fits, passes⟩ := spells_of_decodeCommand h
  exact ⟨Machine.decodeCommand_format h, words, bytes, fits, passes⟩

end Sys2Proof
end

section
/-! The codec of the other formats (R93 to R95, R98, R99, R24, R104): reading an image in its own format (O3), the
address byte as a number (O5), the nine result bytes (O6). -/

namespace Sys2Proof

/-! ## The address byte -/

theorem toNat_addrByteBits (a : BitVec 7) (d : Dir) :
    (addrByteBits a d).toNat = 2 * a.toNat + (dirBit d).toNat := by
  have low := (dirBit d).isLt
  rw [addrByteBits, BitVec.toNat_append, ← Nat.shiftLeft_add_eq_or_of_lt low, Nat.shiftLeft_eq]
  omega

theorem extractLsb'_addrByteBits (a : BitVec 7) (d : Dir) : (addrByteBits a d).extractLsb' 1 7 = a :=
  extractLsb'_append_high a (dirBit d)

theorem getLsbD_zero_addrByteBits (a : BitVec 7) (d : Dir) : (addrByteBits a d).getLsbD 0 = (dirBit d).getLsbD 0 := by
  rw [addrByteBits, BitVec.getLsbD_append, if_pos Nat.zero_lt_one]

theorem decodeAddrByte_write (a : BitVec 7) : decodeAddrByte (addrByteBits a .write) = .addrByteW a := by
  rw [decodeAddrByte, getLsbD_zero_addrByteBits, extractLsb'_addrByteBits]
  rfl

theorem decodeAddrByte_read (a : BitVec 7) : decodeAddrByte (addrByteBits a .read) = .addrByteR a := by
  rw [decodeAddrByte, getLsbD_zero_addrByteBits, extractLsb'_addrByteBits]
  rfl

/-- Settles O5: the seven address bits lie above the direction bit, and hold the whole of an address below 128. -/
theorem addressByteIsTwiceTheAddressPlusDirection : Obligations.AddressByteIsTwiceTheAddressPlusDirection := by
  intro addr small
  have whole : (addr.extractLsb' 0 7).toNat = addr.toNat := by
    simp only [BitVec.extractLsb'_toNat, Nat.shiftRight_zero]
    exact Nat.mod_eq_of_lt small
  refine ⟨?_, ?_, rfl, rfl, decodeAddrByte_write _, decodeAddrByte_read _⟩
  · exact (toNat_addrByteBits _ .write).trans (by rw [whole]; rfl)
  · exact (toNat_addrByteBits _ .read).trans (by rw [whole]; rfl)

/-! ## The result bytes -/

/-- Settles O6: `err`, `kind` and `phase` of each result, put together. -/
theorem resultBytesAreTheNineCodes : Obligations.ResultBytesAreTheNineCodes :=
  ⟨rfl, rfl, rfl, rfl, rfl, rfl, rfl, rfl, rfl⟩

/-! ## Reading an image in its own format -/

/-- The duty bit is free where the kind is Fast, and 0 where it is Standard (R93). -/
theorem decodeMode_modeWordBits {k : SpeedKind} {d : Duty} (al : Bool) (ok : ¬(k = .standard ∧ d = .duty16to9)) :
    decodeMode (modeWordBits k d al) = .done (.modeWord k d al) [] [] := by
  cases k with
  | standard =>
    cases d with
    | duty2to1 => cases al <;> rfl
    | duty16to9 => exact absurd ⟨rfl, rfl⟩ ok
  | fast => cases d <;> cases al <;> rfl

theorem decodeDescriptor_write (len : BitVec 15) :
    decodeDescriptor (dirBit .write ++ len) = .done (.opWrite len) [] [] := by
  simp only [decodeDescriptor, descDir_append, descLen_append]

theorem decodeDescriptor_read (len : BitVec 15) :
    decodeDescriptor (dirBit .read ++ len) = .done (.opRead len) [] [] := by
  simp only [decodeDescriptor, descDir_append, descLen_append]

theorem withRest_of_done {d : Word → Decoded} {w : Word} {i : Instr} (read : d w = .done i [] []) (ws : List Word)
    (bs : List Byte) : withRest d (w :: ws) bs = .done i ws bs := by
  simp only [withRest, read]

theorem decode_encode {i : Instr} (notCommand : i.format ≠ .h) (notUop : i.format ≠ .uop) (ok : i.failing = none) :
    decode i.format (encode i) = .done i [] [] := by
  cases i with
  | modeWord k d al =>
    have free : ¬(k = .standard ∧ d = .duty16to9) := by simpa [Instr.failing] using ok
    exact withRest_of_done (decodeMode_modeWordBits al free) [] []
  | opWrite len => exact withRest_of_done (decodeDescriptor_write len) [] []
  | opRead len => exact withRest_of_done (decodeDescriptor_read len) [] []
  | addrByteW a => exact congrArg (Decoded.done · [] []) (decodeAddrByte_write a)
  | addrByteR a => exact congrArg (Decoded.done · [] []) (decodeAddrByte_read a)
  | new _ _ _ | read _ _ | write _ _ | writeRead _ _ _ | transaction _ _ | release
  | reservedOpc0 _ | reservedOpc7 _ | reservedOpc8 _ | reservedOpc9 _ | reservedOpcA _
  | reservedOpcB _ | reservedOpcC _ | reservedOpcD _ | reservedOpcE _ | reservedOpcF _ => exact absurd rfl notCommand
  | pollErrors _ | waitStopIdle | setAck | genStart | uopArmLast | uopGenStop | addressPhase
  | sendByte | recvByte | writeBytes | readBytes | writeWoPrepare | readWoPrepare => exact absurd rfl notUop
  | _ => rfl

/-- A micro-operation is among those that enter at the control point of its encoding (R104). -/
theorem mem_decodeUop_encode {i : Instr} (uop : i.format = .uop) : ∃ c, encode i = .code c ∧ i ∈ decodeUop c := by
  cases i with
  | pollErrors w => cases w <;> exact ⟨_, rfl, by decide⟩
  | waitStopIdle | setAck | genStart | uopArmLast | uopGenStop | addressPhase | sendByte | recvByte
  | writeBytes | readBytes | writeWoPrepare | readWoPrepare => exact ⟨_, rfl, by decide⟩
  | _ => cases uop

/-- Settles O3: format by format; the micro-operations by their entry points. -/
theorem decodeUndoesEncodeOnOtherFormats : Obligations.DecodeUndoesEncodeOnOtherFormats :=
  fun i notCommand ok =>
    ⟨fun notUop => decode_encode notCommand notUop ((wellFormed_iff i).1 ok), mem_decodeUop_encode⟩

end Sys2Proof
end

section
/-! What stands behind a header while the rest of its command is on the way (R93 to R96, R102): the mode word, the count
word, one descriptor. -/

namespace Sys2Proof

theorem takeBytes_short {n : Nat} {bs : List Byte} (short : bs.length < n) : takeBytes n bs = none := by
  cases take : takeBytes n bs with
  | none => rfl
  | some parts =>
    obtain ⟨rfl, len⟩ := takeBytes_some take
    simp [← len] at short

theorem takeBytes_enough {n : Nat} {bs : List Byte} (enough : n ≤ bs.length) :
    takeBytes n bs = some (bs.take n, bs.drop n) := by
  have take := takeBytes_append (bs.take n) (bs.drop n)
  rwa [List.length_take_of_le enough, List.take_append_drop] at take

theorem takeOperations_short {n : Nat} (nonzero : n ≠ 0) (bs : List Byte) : takeOperations n [] bs = none := by
  cases n with
  | zero => exact absurd rfl nonzero
  | succ n => rfl

theorem modeWordZero_modeWordBits (k : SpeedKind) (d : Duty) (al : Bool) :
    modeWordZero (modeWordBits k d al) = (k == .fast || d == .duty2to1) := by
  cases k <;> cases d <;> cases al <;> rfl

theorem decodeNew_mode_waits {m : Word} (zero : modeWordZero m = true) (bs : List Byte) :
    decodeNew [m] bs = .incomplete := by
  simp only [decodeNew, zero, if_true]

theorem decodeNew_mode_refused {m : Word} (bad : modeWordZero m = false) (bs : List Byte) :
    decodeNew [m] bs = .refused .modeZero := by
  simp only [decodeNew, bad, Bool.false_eq_true, if_false]

theorem decodeTransaction_count_waits (a : Byte) {n : Word} (nonzero : n ≠ 0) (bs : List Byte) :
    decodeTransaction a [n] bs = .incomplete := by
  simp only [decodeTransaction, takeOperations_short fun zero => nonzero (BitVec.eq_of_toNat_eq zero)]

theorem decodeRead_descriptor (a : Byte) (len : BitVec 15) (bs : List Byte) :
    decodeRead a [dirBit .read ++ len] bs = .done (.read a len.toNat) [] bs := by
  simp only [decodeRead, descDir_append, descLen_append]

theorem decodeWrite_descriptor (a : Byte) {len : BitVec 15} {bs : List Byte} (enough : len.toNat ≤ bs.length) :
    decodeWrite a [dirBit .write ++ len] bs = .done (.write a (bs.take len.toNat)) [] (bs.drop len.toNat) := by
  simp only [decodeWrite, descDir_append, descLen_append, takeBytes_enough enough]

theorem decodeWrite_descriptor_waits (a : Byte) {len : BitVec 15} {bs : List Byte} (short : bs.length < len.toNat) :
    decodeWrite a [dirBit .write ++ len] bs = .incomplete := by
  simp only [decodeWrite, descDir_append, descLen_append, takeBytes_short short]

end Sys2Proof
end

section
/-! The checks before a command is accepted (O16, O17), the convenience forms (O55) and the operand words (O18, O19). -/

namespace Sys2Proof.Machine

/-! ## The checks of a command -/

theorem whenAccepted_fits {need : Handle} {s : State} (handle : s.handle = need) (rest : s.ctl = .rest) (t : State) :
    whenAccepted need s t = .next t := by
  rw [whenAccepted, if_pos handle, if_pos rest]

theorem whenAccepted_other_handle {need : Handle} {s : State} (other : s.handle ≠ need) (t : State) :
    whenAccepted need s t = .refused .handleFits := by
  rw [whenAccepted, if_neg other]

theorem whenAccepted_away {need : Handle} {s : State} (handle : s.handle = need) (away : s.ctl ≠ .rest) (t : State) :
    whenAccepted need s t = .refused .atRest := by
  rw [whenAccepted, if_pos handle, if_neg away]

theorem execNew_frequency_zero {m : Mode} (zero : m.frequency = 0) (clk : Nat) (al : Bool) (s : State) :
    execNew m clk al s = .refused .freqPos := by
  rw [execNew, if_pos zero]

theorem execNew_frequency_pos {m : Mode} (pos : 0 < m.frequency) (clk : Nat) (al : Bool) (s : State) :
    ∃ t, execNew m clk al s = whenAccepted .unbound s t := by
  rw [execNew, if_neg pos.ne']
  exact ⟨_, rfl⟩

theorem acceptBus_addr7 {a : Byte} (large : 128 ≤ a.toNat) (c : Instr) (k : CmdKind) (ops : List Operation)
    (s : State) :
    acceptBus c k a ops s = .refused .addr7 := by
  simp only [acceptBus, addrCheck_some large]

theorem acceptBus_small {a : Byte} (small : a.toNat < 128) (c : Instr) (k : CmdKind) (ops : List Operation)
    (s : State) :
    acceptBus c k a ops s = whenAccepted .bound s (startBus a ops (latchOps a ops (accept c k s))) := by
  simp only [acceptBus, (addrCheck_none_iff a).2 small]

/-- The commands that use the bus, with their target address. -/
inductive Targets (a : Byte) : Instr → Prop
  | read (n : Nat) : Targets a (.read a n)
  | write (bs : List Byte) : Targets a (.write a bs)
  | writeRead (bs : List Byte) (n : Nat) : Targets a (.writeRead a bs n)
  | transaction (ops : List Operation) : Targets a (.transaction a ops)

theorem Targets.addr7 {a : Byte} {c : Instr} (command : Targets a c) (large : 128 ≤ a.toNat) (s : State) :
    exec c s = .refused .addr7 := by
  cases command with
  | read n =>
    simp only [exec, execRead, addrCheck_some large, acceptBus_addr7 large]
    exact ite_self _
  | write bs => exact acceptBus_addr7 large _ _ _ s
  | writeRead bs n => exact acceptBus_addr7 large _ _ _ s
  | transaction ops => exact acceptBus_addr7 large _ _ _ s

/-- With an address of 7 bits a bus command asks for the bound handle and for REST, and nothing else. -/
theorem Targets.small {a : Byte} {c : Instr} (command : Targets a c) (small : a.toNat < 128) (s : State) :
    ∃ t, exec c s = whenAccepted .bound s t := by
  cases command with
  | read n =>
    simp only [exec, execRead, (addrCheck_none_iff a).2 small, acceptBus_small small]
    split <;> exact ⟨_, rfl⟩
  | write bs => exact ⟨_, acceptBus_small small _ _ _ s⟩
  | writeRead bs n => exact ⟨_, acceptBus_small small _ _ _ s⟩
  | transaction ops => exact ⟨_, acceptBus_small small _ _ _ s⟩

theorem Targets.completes {a : Byte} {c : Instr} (command : Targets a c) (small : a.toNat < 128) {s : State}
    (bound : s.handle = .bound) (rest : s.ctl = .rest) : ∃ t, exec c s = .next t := by
  obtain ⟨t, run⟩ := command.small small s
  exact ⟨t, run.trans (whenAccepted_fits bound rest t)⟩

/-- Settles O16: each command asks its own operand first, then the handle, then REST. -/
theorem commandsAreRefusedByName : Obligations.CommandsAreRefusedByName := by
  refine ⟨fun s m clk al => ⟨fun zero => execNew_frequency_zero zero clk al s, fun pos bound => ?_,
    fun pos unbound away => ?_⟩, fun s => ⟨fun unbound => ?_, fun bound away => ?_⟩, fun s a n bs ops c shape => ?_⟩
  · obtain ⟨t, run⟩ := execNew_frequency_pos pos clk al s
    exact run.trans (whenAccepted_other_handle (by simp [bound]) t)
  · obtain ⟨t, run⟩ := execNew_frequency_pos pos clk al s
    exact run.trans (whenAccepted_away unbound away t)
  · exact whenAccepted_other_handle (by simp [unbound]) _
  · exact whenAccepted_away bound away _
  · have command : Targets a c := by
      rcases shape with rfl | rfl | rfl | rfl
      · exact .read n
      · exact .write bs
      · exact .writeRead bs n
      · exact .transaction ops
    refine ⟨fun large => command.addr7 large s, fun small unbound => ?_, fun small bound away => ?_⟩ <;>
      obtain ⟨t, run⟩ := command.small small s
    · exact run.trans (whenAccepted_other_handle (by simp [unbound]) t)
    · exact run.trans (whenAccepted_away bound away t)

/-- Settles O17: the meaning of each of these rows is its stop. -/
theorem reservedRowsStop : Obligations.ReservedRowsStop :=
  ⟨fun _ _ => ⟨rfl, rfl, rfl, rfl, rfl, rfl, rfl, rfl, rfl, rfl⟩, fun _ => ⟨rfl, rfl, rfl, rfl, rfl⟩⟩

/-! ## The convenience forms -/

theorem acceptBus_fits {a : Byte} (small : a.toNat < 128) {s : State} (bound : s.handle = .bound)
    (rest : s.ctl = .rest) (c : Instr) (k : CmdKind) (ops : List Operation) :
    acceptBus c k a ops s = .next (startBus a ops (latchOps a ops (accept c k s))) :=
  (acceptBus_small small c k ops s).trans (whenAccepted_fits bound rest _)

/-- Two bus commands with one sequence start the same transaction, but for `cmd` and the `Cmd` event (R106). -/
theorem startBus_sameButCmd (a : Byte) (op : Operation) (later : List Operation) (c c' : Instr) (k k' : CmdKind)
    (s : State) :
    SameButCmd (startBus a (op :: later) (latchOps a (op :: later) (accept c k s)))
      (startBus a (op :: later) (latchOps a (op :: later) (accept c' k' s))) := rfl

/-- Settles O55: both forms are `acceptBus` with the same sequence, which is not empty. -/
theorem convenienceFormsAreTransactions : Obligations.ConvenienceFormsAreTransactions := by
  intro s a c ops small bound rest form
  obtain ⟨k, op, later, rfl, expands⟩ : ∃ k op later, ops = op :: later ∧ exec c s = acceptBus c k a ops s := by
    rcases form with ⟨bs, rfl, rfl⟩ | ⟨bs, n, rfl, rfl⟩ | ⟨n, pos, rfl, rfl⟩
    · exact ⟨.write, _, _, rfl, rfl⟩
    · exact ⟨.writeRead, _, _, rfl, rfl⟩
    · exact ⟨.read, _, _, rfl, if_neg pos.ne'⟩
  exact ⟨_, _, expands.trans (acceptBus_fits small bound rest c k _), acceptBus_fits small bound rest _ .transaction _,
    startBus_sameButCmd a op later _ _ _ _ s, rfl, rfl⟩

/-! ## The operand words -/

/-- Executing an operand word is receiving it on the command stream (R96). -/
inductive OperandWord : Instr → Word → Prop
  | mode (k : SpeedKind) (d : Duty) (al : Bool) : OperandWord (.modeWord k d al) (modeWordBits k d al)
  | count (w : Word) : OperandWord (.countWord w) w
  | write (len : BitVec 15) : OperandWord (.opWrite len) (dirBit .write ++ len)
  | read (len : BitVec 15) : OperandWord (.opRead len) (dirBit .read ++ len)

theorem OperandWord.exec_eq {i : Instr} {w : Word} (operand : OperandWord i w) (s : State) :
    exec i s = receiveWord w s := by
  cases operand <;> rfl

theorem receiveWord_away (w : Word) {s : State} (away : s.ctl ≠ .rest) : receiveWord w s = .refused .atRest := by
  rw [receiveWord, if_neg away]

theorem receiveWord_done {w : Word} {s : State} {i : Instr} {ws : List Word} {bs : List Byte} (rest : s.ctl = .rest)
    (spelled : decodeCommand (s.cmdIn ++ [w]) s.wdata = .done i ws bs) :
    receiveWord w s = exec i { s with cmdIn := ws, wdata := bs } := by
  simp only [receiveWord, rest, if_true, spelled, execCommand_eq _ (decodeCommand_format spelled)]

theorem receiveWord_incomplete {w : Word} {s : State} (rest : s.ctl = .rest)
    (waits : decodeCommand (s.cmdIn ++ [w]) s.wdata = .incomplete) :
    receiveWord w s = .next { s with cmdIn := s.cmdIn ++ [w] } := by
  simp only [receiveWord, rest, if_true, waits]

theorem receiveWord_refused {w : Word} {s : State} {c : Check} (rest : s.ctl = .rest)
    (fails : decodeCommand (s.cmdIn ++ [w]) s.wdata = .refused c) : receiveWord w s = .refused (refusalOf c) := by
  simp only [receiveWord, rest, if_true, fails]

/-- Settles O19: by the answers of the decoder on the stream with the word behind it. -/
theorem operandWordsElsewhere : Obligations.OperandWordsElsewhere := by
  intro s i w shape
  have operand : OperandWord i w := by
    rcases shape with ⟨k, d, al, rfl, rfl⟩ | rfl | ⟨len, rfl, rfl⟩ | ⟨len, rfl, rfl⟩
    · exact .mode k d al
    · exact .count w
    · exact .write len
    · exact .read len
  rw [operand.exec_eq]
  exact ⟨receiveWord_away w, fun rest _ _ _ => receiveWord_done rest, receiveWord_incomplete,
    fun rest _ => receiveWord_refused rest⟩

section
variable {s : State} {h w : Word}

/-- The word behind a header while the command is not whole: it joins the stream. -/
theorem receiveWord_behind_header_waits (rest : s.ctl = .rest) (here : s.cmdIn = [h])
    (waits : decodeCommand [h, w] s.wdata = .incomplete) :
    receiveWord w s = .next { s with cmdIn := [h, w] } := by
  have stream : s.cmdIn ++ [w] = [h, w] := by rw [here]; rfl
  rw [← stream] at waits ⊢
  exact receiveWord_incomplete rest waits

/-- The word behind a header that completes a bus command: the command is accepted. -/
theorem receiveWord_behind_header_accepts {a : Byte} {c : Instr} {bs : List Byte} (rest : s.ctl = .rest)
    (here : s.cmdIn = [h]) (bound : s.handle = .bound) (command : Targets a c) (small : a.toNat < 128)
    (spelled : decodeCommand [h, w] s.wdata = .done c [] bs) :
    ∃ t, receiveWord w s = .next t ∧ exec c { s with cmdIn := [], wdata := bs } = .next t := by
  have stream : s.cmdIn ++ [w] = [h, w] := by rw [here]; rfl
  rw [← stream] at spelled
  obtain ⟨t, run⟩ := command.completes small (s := { s with cmdIn := [], wdata := bs }) bound rest
  exact ⟨t, (receiveWord_done rest spelled).trans run, run⟩
end

/-- Settles O18: what the header and the word behind it spell, word by word. -/
theorem operandWordsArriveOnTheStream : Obligations.OperandWordsArriveOnTheStream := by
  intro s a small rest
  have ok : addrCheck a = none := (addrCheck_none_iff a).2 small
  refine ⟨fun k d al here => ⟨fun free => ?_, ?_⟩, fun n here => ⟨fun nonzero => ?_, ?_⟩, fun len here bound => ?_,
    fun len here => ⟨fun enough bound => ?_, fun short => ?_⟩⟩
  · have zero : modeWordZero (modeWordBits k d al) = true := by simpa [modeWordZero_modeWordBits] using free
    exact receiveWord_behind_header_waits rest here ((decodeCommand_new _ _).trans (decodeNew_mode_waits zero _))
  · rintro rfl rfl
    refine receiveWord_refused (c := .modeZero) rest ?_
    rw [here]
    exact (decodeCommand_new _ _).trans (decodeNew_mode_refused (modeWordZero_modeWordBits _ _ al) _)
  · exact receiveWord_behind_header_waits rest here
      ((decodeCommand_transaction ok _ _).trans (decodeTransaction_count_waits a nonzero _))
  · rintro rfl bound
    exact receiveWord_behind_header_accepts rest here bound (.transaction []) small (decodeCommand_transaction ok _ _)
  · exact receiveWord_behind_header_accepts rest here bound (.read _) small
      ((decodeCommand_read ok _ _).trans (decodeRead_descriptor a len _))
  · exact receiveWord_behind_header_accepts rest here bound (.write _) small
      ((decodeCommand_write ok _ _).trans (decodeWrite_descriptor a enough))
  · have word : descWord .write len.toNat = dirBit .write ++ len := by simp [descWord]
    rw [word]
    exact receiveWord_behind_header_waits rest here
      ((decodeCommand_write ok _ _).trans (decodeWrite_descriptor_waits a short))

end Sys2Proof.Machine
end

section
/-! A micro-operation inside its own control points is the step of the point that `ctl` names (O37), and completes in a
state that meets the invariant (O40). -/

namespace Sys2Proof.Machine

/-! ## The step of a procedure -/

theorem runPoint_pollPointOf (w : Wait) (s : State) : runPoint (pollPointOf w) s = pollPoint w s := by
  cases w <;> rfl

theorem runPoint_clearPointOf (w : Wait) (s : State) : runPoint (clearPointOf w) s = clearPoint w s := by
  cases w <;> rfl

theorem nextStepOf_own {points : List Point} {s : State} (own : s.ctl ∈ points) (entry : Ans) :
    nextStepOf points entry s = exec (pointInstr s.ctl) s := by
  rw [nextStepOf, if_pos own, exec_pointInstr]

theorem nextStepOf_outside {points : List Point} {s : State} (outside : s.ctl ∉ points) (entry : Ans) :
    nextStepOf points entry s = entry := by
  rw [nextStepOf, if_neg outside]

theorem execPollErrors_clear {w : Wait} {s : State} (here : s.ctl = clearPointOf w) :
    execPollErrors w s = exec (pointInstr s.ctl) s := by
  rw [execPollErrors, if_pos here, exec_pointInstr, here, runPoint_clearPointOf]

theorem execPollErrors_away {w : Wait} {s : State} (away : s.ctl ≠ clearPointOf w) :
    execPollErrors w s = exec (pointInstr (pollPointOf w)) s := by
  rw [execPollErrors, if_neg away, exec_pointInstr, runPoint_pollPointOf]

theorem pollPointOf_ne_clearPointOf (w : Wait) : pollPointOf w ≠ clearPointOf w := by cases w <;> decide

theorem execPollErrors_own {w : Wait} {s : State} (own : s.ctl = pollPointOf w ∨ s.ctl = clearPointOf w) :
    execPollErrors w s = exec (pointInstr s.ctl) s := by
  rcases own with poll | clear
  · have away : s.ctl ≠ clearPointOf w := poll ▸ pollPointOf_ne_clearPointOf w
    rw [execPollErrors_away away, poll]
  · exact execPollErrors_clear clear

/-- Settles O37: inside its points and outside them, procedure by procedure. -/
theorem microOperationsRunTheirOwnPoints : Obligations.MicroOperationsRunTheirOwnPoints :=
  ⟨fun _ _ => ⟨execPollErrors_own, execPollErrors_away⟩,
    fun _ => ⟨(nextStepOf_own · _), (nextStepOf_outside · _), (nextStepOf_own · _), (nextStepOf_outside · _),
      (nextStepOf_own · _), (nextStepOf_outside · _), (nextStepOf_own · _), (nextStepOf_outside · _)⟩⟩

/-! ## Completion -/

/-- READ_WO_PREPARE rejects an empty Read only (R191). -/
theorem execReadWoPrepare_own {s : State} (notEmpty : currentOp s ≠ some (.read 0))
    (own : s.ctl ∈ .armLast :: recvPoints) : execReadWoPrepare s = exec (pointInstr s.ctl) s := by
  rw [execReadWoPrepare, if_neg notEmpty]
  exact nextStepOf_own own _

theorem readFinalPoints_inBusCommand : ∀ p ∈ Point.armLast :: recvPoints, inBusCommand p := by
  unfold inBusCommand
  decide

/-- Where a byte of the current Read is still to come, its length is not 0. -/
theorem Inv.currentOp_ne_emptyRead {s : State} (h : Inv s) (own : s.ctl ∈ .armLast :: recvPoints) :
    currentOp s ≠ some (.read 0) := by
  obtain ⟨op, ⟨here, -⟩, place⟩ := h.place (readFinalPoints_inBusCommand _ own)
  have more : s.byteIdx < op.length := by
    rcases List.mem_cons.1 own with arm | recv
    · obtain ⟨-, last, -⟩ := (placeOk_arm arm).1 place
      omega
    · exact ((placeOk_recv recv).1 place).2
  rw [here]
  rintro ⟨rfl⟩
  exact Nat.not_lt_zero _ more

/-- Settles O40: the control point completes, and the micro-operation is that control point. -/
theorem microOperationsCompleteInSoundStates : Obligations.MicroOperationsCompleteInSoundStates := by
  intro s h
  obtain ⟨t, run⟩ := h.completes
  have point : exec (pointInstr s.ctl) s = .next t := (exec_pointInstr _ s).trans run
  have own {points : List Point} (mem : s.ctl ∈ points) (entry : Ans) : nextStepOf points entry s = .next t :=
    (nextStepOf_own mem entry).trans point
  have readFinal (mem : s.ctl ∈ .armLast :: recvPoints) : exec .readWoPrepare s = .next t :=
    (execReadWoPrepare_own (h.currentOp_ne_emptyRead mem) mem).trans point
  refine ⟨fun w mem => ⟨t, (execPollErrors_own mem).trans point, point⟩, fun mem => ⟨t, own mem _, point⟩,
    fun mem => ⟨t, own mem _, point⟩, fun mem => ⟨t, own mem _, point, own mem _, own (.tail _ mem) _⟩,
    fun mem => ⟨t, own mem _, point, own mem _, readFinal (.tail _ mem)⟩, fun here => ⟨t, readFinal ?_, point⟩,
    fun here => ⟨t, own ?_ _, point⟩⟩
  · exact here ▸ .head _
  · exact here ▸ .head _

end Sys2Proof.Machine
end

section
/-! The error-flag monitor: the first fault of a snapshot (O24), the condition step of each wait (O27), and the two
points of a wait (O26, O28, O29). -/

namespace Sys2Proof.Machine

/-! ## The first fault -/

theorem faultCode_injective {f g : FaultFlag} (same : faultCode f = faultCode g) : f = g := by
  cases f <;> cases g <;> cases same <;> rfl

/-- The flag that the monitor reports is set, and no flag before it is. -/
theorem firstFault_some {s : Status} {f : FaultFlag} (first : firstFault s = some f) :
    faultBit s f = true ∧ ∀ g, faultCode g < faultCode f → faultBit s g = false := by
  unfold firstFault at first
  split_ifs at first
  all_goals
    cases first
    refine ⟨‹_›, fun g before => ?_⟩
    cases g <;> simp_all [faultBit, faultCode]

theorem firstFault_none_iff (s : Status) : firstFault s = none ↔ ∀ f, faultBit s f = false := by
  constructor
  · intro none f
    unfold firstFault at none
    split_ifs at none
    cases f <;> simp_all [faultBit]
  · intro zero
    refine Option.eq_none_iff_forall_ne_some.2 fun f first => ?_
    simpa [zero f] using (firstFault_some first).1

/-- Settles O24: two flags that are set with none set before them have the same place in the order. -/
theorem firstFaultFollowsThePriority : Obligations.FirstFaultFollowsThePriority := by
  refine fun s => ⟨fun f => ⟨firstFault_some, fun ⟨set, before⟩ => ?_⟩, firstFault_none_iff s⟩
  cases first : firstFault s with
  | none => simp [(firstFault_none_iff s).1 first f] at set
  | some g =>
    obtain ⟨set', before'⟩ := firstFault_some first
    have notBefore : ¬ faultCode g < faultCode f := fun lt => by simp [before g lt] at set'
    have notAfter : ¬ faultCode f < faultCode g := fun lt => by simp [before' f lt] at set
    rw [faultCode_injective (Nat.le_antisymm (Nat.not_lt.1 notAfter) (Nat.not_lt.1 notBefore))]

/-! ## The condition step -/

theorem next_goto_exit {flag : Bool} (set : flag = true) (p q : Point) (s : State) :
    (.next (goto (if flag then p else q) s) : Ans) = .next { s with ctl := p } := by
  rw [if_pos set]
  rfl

theorem next_goto_loop {flag : Bool} (zero : flag = false) (p q : Point) (s : State) :
    (.next (goto (if flag then p else q) s) : Ans) = .next { s with ctl := q } := by
  rw [if_neg (ne_true_of_eq_false zero)]
  rfl

/-- Settles O27: three waits choose the next point by their flag, two hand control on when it is set (R125). -/
theorem waitTestsExitOnTheirOwnFlag : Obligations.WaitTestsExitOnTheirOwnFlag := fun s =>
  ⟨rfl, rfl, (next_goto_exit · _ _ s), (next_goto_loop · _ _ s), fun acked param => (if_pos acked).trans (if_pos param),
    fun acked noParam => (if_pos acked).trans (if_neg (ne_true_of_eq_false noParam)),
    fun zero => if_neg (ne_true_of_eq_false zero), (next_goto_exit · _ _ s), (next_goto_loop · _ _ s),
    fun done => if_pos done, fun zero => if_neg (ne_true_of_eq_false zero), (next_goto_exit · _ _ s),
    (next_goto_loop · _ _ s)⟩

/-! ## The two points of a wait -/

theorem pollPoint_fault (w : Wait) {s : State} {f : FaultFlag}
    (seen : firstFault (visibleStatus s.params s.regs.sts) = some f) :
    pollPoint w s = .next (holdFault w f (readStatus s)) := by
  simp only [pollPoint, seen]

theorem pollPoint_clean (w : Wait) {s : State} (clean : Clean s) : pollPoint w s = waitTest w (readStatus s) := by
  simp only [pollPoint, show firstFault _ = none from clean]

theorem clearPoint_abort {w : Wait} {s : State} {e : Err} (raised : raisedError w s.pendFlag = some e) :
    clearPoint w s = .next (raise e (regClear s.pendFlag s)) := by
  rw [raisedError_eq] at raised
  obtain ⟨e₀, err, rfl⟩ := Option.map_eq_some_iff.1 raised
  simp only [clearPoint, err]

theorem clearPoint_ignore (w : Wait) {s : State} (held : s.pendFlag = .buserr) :
    clearPoint w s = waitTest w (regClear .buserr s) := by
  simp only [clearPoint, held, errOf]

theorem exec_pollPointOf (w : Wait) (s : State) : exec (pointInstr (pollPointOf w)) s = pollPoint w s :=
  (exec_pointInstr _ s).trans (runPoint_pollPointOf w s)

theorem exec_clearPointOf (w : Wait) (s : State) : exec (pointInstr (clearPointOf w)) s = clearPoint w s :=
  (exec_pointInstr _ s).trans (runPoint_clearPointOf w s)

/-- Settles O26: the snapshot of the poll is the visible status. -/
theorem pollReadsOnceAndHoldsTheFirstFault : Obligations.PollReadsOnceAndHoldsTheFirstFault := by
  rintro w s v rfl
  rw [exec_pollPointOf]
  exact ⟨fun _ => pollPoint_fault w, pollPoint_clean w⟩

/-- Settles O28: the abort appends its two events one after the other. -/
theorem clearAbortsOrIgnoresTheHeldFlag : Obligations.ClearAbortsOrIgnoresTheHeldFlag := by
  intro w s
  rw [exec_clearPointOf]
  refine ⟨fun e raised => (clearPoint_abort raised).trans ?_, clearPoint_ignore w⟩
  simp [raise, deliver, regClear]

/-- Settles O29: the poll holds the flag for the `*_CLEAR` point, which ignores it. -/
theorem busErrorAloneNeverSurfaces : Obligations.BusErrorAloneNeverSurfaces := by
  rintro w s t alone rfl
  have poll : exec (pointInstr (pollPointOf w)) s = .next (holdFault w .buserr (readStatus s)) :=
    (exec_pollPointOf w s).trans (pollPoint_fault w alone)
  refine ⟨poll, fun here => ?_, ?_⟩
  · have away : s.ctl ≠ clearPointOf w := here ▸ pollPointOf_ne_clearPointOf w
    exact (execPollErrors_away away).trans poll
  · exact ((execPollErrors_clear rfl).trans (exec_clearPointOf w _)).trans (clearPoint_ignore w rfl)

end Sys2Proof.Machine
end

section
/-! What follows the access of a control point of a bus command, and that without its hardware flag `Timeout` is never
produced (O47). -/

namespace Sys2Proof.Machine

/-! ## After the access -/

/-- With no fault to hold or to report control goes on to a point that is no `*_CLEAR` point, or the command ends: in
`Ok` or in the Overrun of an empty final Read (R214). -/
inductive GoesOn (u t : State) : Prop
  | running (away : t.ctl ∉ .rest :: clearPoints) (hist : t.hist = u.hist) (result : t.result = u.result)
  | ended {r} (rest : t.ctl = .rest) (outcome : r = .ok ∨ r = .err .overrun) (hist : t.hist = u.hist ++ [.res r])
      (result : t.result = some r)

/-- What follows the access at the control point in `ctl`, `u` being the state after the access. -/
inductive FollowUp (s : State) : State → State → Prop
  | goesOn {u t} (on : GoesOn u t) : FollowUp s u t
  | holds {w f} (seen : firstFault (visibleStatus s.params s.regs.sts) = some f) :
      FollowUp s (readStatus s) (holdFault w f (readStatus s))
  | aborts {w e} (here : s.ctl = clearPointOf w) (err : raisedError w s.pendFlag = some e) :
      FollowUp s (regClear s.pendFlag s) (raise e (regClear s.pendFlag s))

theorem goesOn_goto {p : Point} (away : p ∉ .rest :: clearPoints) (u : State) : GoesOn u (goto p u) :=
  .running away rfl rfl

theorem goesOn_finishOk (u : State) : GoesOn u (finishOk u) := .ended rfl (.inl rfl) rfl rfl

theorem testTargets_away (w : Wait) : ∀ p ∈ testTargets w, p ∉ .rest :: clearPoints := by cases w <;> decide

theorem Exit.goesOn {u t : State} {op : Operation} (exit : Exit u op t) : GoesOn u t := by
  cases exit with
  | send | stop | arm | receive => exact goesOn_goto (by decide) u
  | empty => exact .ended rfl (.inr rfl) rfl rfl
  | finish => exact goesOn_finishOk u
  | turn => exact .running (by decide : Point.idlePoll ∉ _) rfl rfl

/-- Passing over operations touches neither the history nor the result. -/
theorem Advanced.goesOn {u v t : State} (adv : Advanced u v) (on : GoesOn v t) : GoesOn u t := by
  rw [adv.eq] at on
  cases on with
  | running away hist result => exact .running away hist result
  | ended rest outcome hist result => exact .ended rest outcome hist result

theorem goesOn_dispatch {u t : State} (go : dispatch u = .next t) : GoesOn u t := by
  obtain ⟨v, op, adv, -, exit⟩ := dispatch_next go
  exact adv.goesOn exit.goesOn

theorem goesOn_byteDone {u t : State} (go : byteDone u = .next t) : GoesOn u t := by
  cases goesOn_dispatch go with
  | running away hist result => exact .running away hist result
  | ended rest outcome hist result => exact .ended rest outcome hist result

theorem goesOn_idleCond (s : State) : GoesOn (readStopPending s) (idleCond s) := by
  refine goesOn_goto ?_ _
  split
  · decide
  · split <;> decide

theorem goesOn_startedCond (s : State) : GoesOn (readStatus2 s) (startedCond s) := by
  refine goesOn_goto ?_ _
  split <;> decide

/-- A control point of a bus command makes its access and then goes on, holds a fault or aborts. -/
theorem BusCase.followUp {s t : State} (h : BusCase s t) : ∃ u, Access s u ∧ FollowUp s u t := by
  cases h with
  | test here clean target =>
    exact ⟨_, .status (here ▸ pollPointOf_mem_pollPoints _), .goesOn (goesOn_goto (testTargets_away _ _ target) _)⟩
  | hold here seen => exact ⟨_, .status (here ▸ pollPointOf_mem_pollPoints _), .holds seen⟩
  | ignore here flag target =>
    exact ⟨_, flag ▸ .clear (here ▸ clearPointOf_mem_clearPoints _),
      .goesOn (goesOn_goto (testTargets_away _ _ target) _)⟩
  | abort here err => exact ⟨_, .clear (here ▸ clearPointOf_mem_clearPoints _), .aborts here err⟩
  | readyPoll here clean go => exact ⟨_, .status (by rw [here]; decide), .goesOn (goesOn_dispatch go)⟩
  | readyClear here flag go => exact ⟨_, flag ▸ .clear (by rw [here]; decide), .goesOn (goesOn_dispatch go)⟩
  | readyAck here go => exact ⟨_, .status2 (by rw [here]; decide), .goesOn (goesOn_dispatch go)⟩
  | sentPoll here clean go => exact ⟨_, .status (by rw [here]; decide), .goesOn (goesOn_byteDone go)⟩
  | sentClear here flag go => exact ⟨_, flag ▸ .clear (by rw [here]; decide), .goesOn (goesOn_byteDone go)⟩
  | received here room go => exact ⟨_, .receive here, .goesOn (goesOn_byteDone go)⟩
  | idleCond here => exact ⟨_, .stopPending here, .goesOn (goesOn_idleCond s)⟩
  | ackEn here => exact ⟨_, .control (by rw [here]; decide), .goesOn (goesOn_goto (by decide) _)⟩
  | start here => exact ⟨_, .control (by rw [here]; decide), .goesOn (goesOn_goto (by decide) _)⟩
  | startedCond here => exact ⟨_, .status2 (by rw [here]; decide), .goesOn (goesOn_startedCond s)⟩
  | address here => exact ⟨_, .address here, .goesOn (goesOn_goto (by decide) _)⟩
  | send here byte => exact ⟨_, .transmit here, .goesOn (goesOn_goto (by decide) _)⟩
  | arm here => exact ⟨_, .control (by rw [here]; decide), .goesOn (goesOn_goto (by decide) _)⟩
  | stop here => exact ⟨_, .control (by rw [here]; decide), .goesOn (goesOn_finishOk _)⟩

/-! ## No timeout -/

theorem visibleStatus_timeout {p : Params} (noFlag : p.hasTimeoutFlag = false) (v : Status) :
    (visibleStatus p v).timeout = false := by
  simp [visibleStatus, noFlag]

theorem firstFault_ne_timeout {v : Status} {f : FaultFlag} (zero : v.timeout = false) (first : firstFault v = some f) :
    f ≠ .timeout := by
  rintro rfl
  have set : v.timeout = true := (firstFault_some first).1
  simp [zero] at set

theorem raisedError_timeout {w : Wait} {f : FaultFlag} (raised : raisedError w f = some .timeout) : f = .timeout := by
  cases w <;> cases f <;> cases raised <;> rfl

theorem pollPoints_apart :
    ∀ p ∈ pollPoints, p ∉ clearPoints ∧ p ∉ [.startedCond, .addrAckclr] ∧ p ≠ .idleCond ∧
      p ∉ [.sreqAckEn, .sreqStart, .armLast, .genStop] ∧ p ≠ .addrWrite ∧ p ≠ .txWrite ∧ p ≠ .rxRead := by decide

/-- A `*_POLL` point latches the visible status (R125). -/
theorem Access.snap_polled {s u : State} (h : Access s u) (poll : s.ctl ∈ pollPoints) :
    u.snap = visibleStatus s.params s.regs.sts := by
  obtain ⟨noClear, noStatus2, noIdle, noControl, noAddress, noTransmit, noReceive⟩ := pollPoints_apart _ poll
  cases h with
  | status => rfl
  | clear here | status2 here | stopPending here | control here | address here | transmit here | receive here =>
    contradiction

theorem BusCase.snap_timeout {s t : State} (h : BusCase s t) (noFlag : s.params.hasTimeoutFlag = false)
    (zero : s.ctl ∉ pollPoints → s.snap.timeout = false) : t.snap.timeout = false := by
  obtain ⟨u, access, silent⟩ := h.access
  obtain ⟨snap, -⟩ := silent.registers
  rw [snap]
  by_cases poll : s.ctl ∈ pollPoints
  · rw [access.snap_polled poll]
    exact visibleStatus_timeout noFlag _
  · rw [access.snap poll]
    exact zero poll

/-- Only a poll makes a `*_CLEAR` point the next one, and it holds a flag that its snapshot shows. -/
theorem BusCase.held_ne_timeout {s t : State} (h : BusCase s t) (noFlag : s.params.hasTimeoutFlag = false) {w : Wait}
    (next : t.ctl = clearPointOf w) : t.pendFlag ≠ .timeout := by
  have mem : t.ctl ∈ clearPoints := next ▸ clearPointOf_mem_clearPoints w
  obtain ⟨u, -, follow⟩ := h.followUp
  cases follow with
  | goesOn on =>
    cases on with
    | running away => exact absurd (.tail _ mem) away
    | ended rest => rw [rest] at mem; exact absurd mem (by decide)
  | holds seen => exact firstFault_ne_timeout (visibleStatus_timeout noFlag _) seen
  | aborts => exact absurd mem (by decide : Point.rest ∉ clearPoints)

theorem BusCase.result_ne_timeout {s t : State} (h : BusCase s t) (no : NoTimeout s) :
    t.result ≠ some (.err .timeout) := by
  obtain ⟨u, access, follow⟩ := h.followUp
  obtain ⟨-, -, -, -, same, -⟩ := access.sequence
  cases follow with
  | goesOn on =>
    cases on with
    | running away hist result => rw [result, same]; exact no.noResult
    | ended rest outcome hist result => rcases outcome with rfl | rfl <;> simp [result]
  | holds => exact no.noResult
  | aborts here err =>
    rintro ⟨rfl⟩
    exact no.held _ here (raisedError_timeout err)

/-- Away from the `*_CLEAR` points no flag is held. -/
theorem NoTimeout.away {t : State} (snap : t.snap.timeout = false) (away : t.ctl ∉ clearPoints)
    (result : t.result ≠ some (.err .timeout)) : NoTimeout t where
  snapshot := snap
  held w here := absurd (here ▸ clearPointOf_mem_clearPoints w) away
  noResult := result

theorem AcceptCase.noTimeout {s u : State} {i : Instr} (accepted : AcceptCase s i u) (snap : s.snap.timeout = false) :
    NoTimeout u := by
  cases accepted with
  | new => exact .away snap (by decide : Point.newEnable ∉ _) nofun
  | release | emptyTransaction | emptyRead => exact .away snap (by decide : Point.rest ∉ _) (by simp)
  | bus => exact .away snap (by decide : Point.idlePoll ∉ _) nofun

/-- A move of the environment touches none of the three registers. -/
theorem NoTimeout.envStep {u : State} (no : NoTimeout u) : NoTimeout (envStep u) :=
  ⟨no.snapshot, no.held, no.noResult⟩

/-- Settles O47: each case of a step, and each poll, on the visible status. -/
theorem noTimeoutWithoutTheFlag : Obligations.NoTimeoutWithoutTheFlag := by
  refine ⟨fun s t noFlag no hstep => ?_, fun w s t noFlag run => ?_⟩
  · have snap := no.snapshot
    obtain ⟨u, rfl, hu⟩ := step_cases hstep
    suffices NoTimeout u ∧ u.params = s.params by
      obtain ⟨no', params⟩ := this
      exact ⟨no'.envStep, (congrArg Params.hasTimeoutFlag params).trans noFlag⟩
    rcases hu with ⟨-, rfl⟩ | ⟨-, i, ws, bs, -, accepted⟩ | ⟨-, rfl⟩ | ⟨-, rfl⟩ | ⟨-, rfl⟩ | ⟨-, busCase⟩
    · exact ⟨no, rfl⟩
    · exact ⟨accepted.noTimeout snap, accepted.env.2⟩
    · exact ⟨.away snap (by decide : Point.newReset ∉ _) no.noResult, rfl⟩
    · exact ⟨.away snap (by decide : Point.newApply ∉ _) no.noResult, rfl⟩
    · exact ⟨.away snap (by decide : Point.rest ∉ _) (by simp [newApply]), rfl⟩
    · exact ⟨⟨busCase.snap_timeout noFlag fun _ => snap, fun _ => busCase.held_ne_timeout noFlag,
        busCase.result_ne_timeout no⟩, busCase.env.2⟩
  · rw [exec_pollPointOf, ← pollPoint_goto w (pollPointOf w)] at run
    have busCase : BusCase (goto (pollPointOf w) s) t := poll_case rfl run
    exact ⟨busCase.snap_timeout noFlag fun away => absurd (pollPointOf_mem_pollPoints w) away,
      busCase.held_ne_timeout noFlag⟩

end Sys2Proof.Machine
end

section
/-! The history stays sound (O51): what may follow the last event of a sound history, and that a step appends nothing
else. -/

namespace Sys2Proof.Machine

/-! ## One event more -/

theorem getElem?_snoc {h : List Event} {e x : Event} {j : Nat} (found : (h ++ [e])[j]? = some x) :
    h[j]? = some x ∨ j = h.length ∧ x = e := by
  rw [List.getElem?_append] at found
  split at found
  · exact .inl found
  · rw [List.getElem?_singleton] at found
    split at found
    · exact .inr ⟨by omega, (Option.some.inj found).symm⟩
    · cases found

theorem getElem?_snoc_old {h : List Event} {x : Event} {k : Nat} (e : Event) (found : h[k]? = some x) :
    (h ++ [e])[k]? = some x := by
  obtain ⟨lt, -⟩ := List.getElem?_eq_some_iff.1 found
  rwa [List.getElem?_append_left lt]

theorem getElem?_of_getLast? {h : List Event} {x : Event} (last : h.getLast? = some x) :
    ∃ k, h.length = k + 1 ∧ h[k]? = some x := by
  obtain ⟨l, rfl⟩ := List.getLast?_eq_some_iff.1 last
  exact ⟨l.length, by simp, List.getElem?_concat_length⟩

/-- The event `e` may follow the last event of a sound history. -/
structure MayFollow (last : Option Event) (e : Event) : Prop where
  clear : ∀ f, e = .clr f → ∃ v, last = some (.rdSts v) ∧ firstFault v = some f
  error : ∀ x, e = .res (.err x) → x ≠ .overrun →
    ∃ f tag e₀, last = some (.clr f) ∧ errOf f = some e₀ ∧ x = retag tag e₀
  result : ∀ r, last = some (.res r) → isCmd e = true
  noBus : e ≠ .res (.err .bus)

theorem HistoryOk.snoc {h : List Event} {e : Event} (ok : HistoryOk h) (follows : MayFollow h.getLast? e) :
    HistoryOk (h ++ [e]) where
  clears j f found := by
    rcases getElem?_snoc found with old | ⟨rfl, new⟩
    · obtain ⟨k, v, next, read, first⟩ := ok.clears j f old
      exact ⟨k, v, next, getElem?_snoc_old e read, first⟩
    · obtain ⟨v, last, first⟩ := follows.clear f new.symm
      obtain ⟨k, next, read⟩ := getElem?_of_getLast? last
      exact ⟨k, v, next, getElem?_snoc_old e read, first⟩
  errors j x found notOverrun := by
    rcases getElem?_snoc found with old | ⟨rfl, new⟩
    · obtain ⟨k, f, tag, e₀, next, clear, err⟩ := ok.errors j x old notOverrun
      exact ⟨k, f, tag, e₀, next, getElem?_snoc_old e clear, err⟩
    · obtain ⟨f, tag, e₀, last, err⟩ := follows.error x new.symm notOverrun
      obtain ⟨k, next, clear⟩ := getElem?_of_getLast? last
      exact ⟨k, f, tag, e₀, next, getElem?_snoc_old e clear, err⟩
  results j r x found after := by
    rcases getElem?_snoc after with old | ⟨len, rfl⟩
    · rcases getElem?_snoc found with res | ⟨rfl, -⟩
      · exact ok.results j r x res old
      · simp at old
    · refine follows.result r ?_
      rw [List.getLast?_eq_getElem?, ← len, Nat.add_sub_cancel]
      rcases getElem?_snoc found with res | ⟨rfl, -⟩
      · exact res
      · simp at len
  noBus mem := by
    rcases List.mem_append.1 mem with old | new
    · exact ok.noBus old
    · exact follows.noBus (List.mem_singleton.1 new).symm

/-! ## A command in progress -/

/-- The history of a command in progress: sound, and no result is its last event. -/
structure OpenHistory (h : List Event) : Prop where
  ok : HistoryOk h
  noResult : ∀ r, h.getLast? ≠ some (.res r)

/-- An event that no check speaks of. -/
def isPlain : Event → Bool
  | .clr _ | .res _ => false
  | _ => true

theorem openHistory_snoc {h : List Event} {e : Event} (ok : HistoryOk h) (follows : MayFollow h.getLast? e)
    (noResult : ∀ r, e ≠ .res r) : OpenHistory (h ++ [e]) where
  ok := ok.snoc follows
  noResult r last := noResult r (Option.some.inj (List.getLast?_concat.symm.trans last))

theorem OpenHistory.plain {h : List Event} (opened : OpenHistory h) {e : Event} (plain : isPlain e = true) :
    OpenHistory (h ++ [e]) := by
  have noClear : ∀ f, e ≠ .clr f := by rintro f rfl; cases plain
  have noResult : ∀ r, e ≠ .res r := by rintro r rfl; cases plain
  exact openHistory_snoc opened.ok
    ⟨fun f new => absurd new (noClear f), fun _ new => absurd new (noResult _),
      fun r last => absurd last (opened.noResult r), noResult _⟩ noResult

/-- A clear of the first fault follows its observation (R124). -/
theorem OpenHistory.clear {h : List Event} (opened : OpenHistory h) {v : Status} {f : FaultFlag}
    (read : h.getLast? = some (.rdSts v)) (first : firstFault v = some f) : OpenHistory (h ++ [.clr f]) :=
  openHistory_snoc opened.ok
    ⟨by rintro _ ⟨rfl⟩; exact ⟨v, read, first⟩, nofun, fun r last => absurd last (opened.noResult r), nofun⟩ nofun

/-- A command may follow whatever a sound history ends in. -/
theorem HistoryOk.command {h : List Event} (ok : HistoryOk h) (c : Instr) : OpenHistory (h ++ [.cmd c]) :=
  openHistory_snoc ok ⟨nofun, nofun, fun _ _ => rfl, nofun⟩ nofun

/-- `Ok` and Overrun follow anything but a result (R251). -/
theorem OpenHistory.finish {h : List Event} (opened : OpenHistory h) {r : Result}
    (outcome : r = .ok ∨ r = .err .overrun) : HistoryOk (h ++ [.res r]) := by
  refine opened.ok.snoc ⟨nofun, fun x new notOverrun => ?_, fun r last => absurd last (opened.noResult r), ?_⟩
  · rcases outcome with rfl | rfl <;> cases new
    exact absurd rfl notOverrun
  · rcases outcome with rfl | rfl <;> simp

/-- The error of a flag follows its clear (R125). -/
theorem OpenHistory.abort {h : List Event} (opened : OpenHistory h) {w : Wait} {f : FaultFlag} {e : Err}
    (clear : h.getLast? = some (.clr f)) (raised : raisedError w f = some e) : HistoryOk (h ++ [.res (.err e)]) := by
  refine opened.ok.snoc ⟨nofun, ?_, fun r last => absurd last (opened.noResult r), ?_⟩
  · rintro _ ⟨rfl⟩ -
    rw [raisedError_eq] at raised
    obtain ⟨e₀, err, retagged⟩ := Option.map_eq_some_iff.1 raised
    exact ⟨f, tagOf w, e₀, clear, err, retagged.symm⟩
  · rintro ⟨rfl⟩
    exact raisedError_ne_bus w f raised

/-! ## Every step keeps the history sound -/

/-- The history is sound and ends as the control point says. -/
def SoundHistory (s : State) : Prop := HistoryOk s.hist ∧ HistoryEnds s

theorem SoundHistory.opened {s : State} (sound : SoundHistory s) (away : s.ctl ≠ .rest) : OpenHistory s.hist where
  ok := sound.1
  noResult r last := away ((sound.2 _ last).2 ⟨r, rfl⟩)

theorem OpenHistory.running {t : State} (opened : OpenHistory t.hist) (away : t.ctl ≠ .rest) : SoundHistory t :=
  ⟨opened.ok, fun _ last => ⟨fun rest => absurd rest away, fun ⟨r, res⟩ => absurd (res ▸ last) (opened.noResult r)⟩⟩

theorem soundHistory_ended {t : State} {h : List Event} {r : Result} (rest : t.ctl = .rest)
    (hist : t.hist = h ++ [.res r]) (ok : HistoryOk (h ++ [.res r])) : SoundHistory t := by
  refine ⟨hist ▸ ok, fun e last => ⟨fun _ => ⟨r, ?_⟩, fun _ => rest⟩⟩
  rw [hist, List.getLast?_concat] at last
  exact (Option.some.inj last).symm

theorem exists_clearPointOf {p : Point} (mem : p ∈ clearPoints) : ∃ w, p = clearPointOf w := by
  simp only [clearPoints, List.mem_cons, List.not_mem_nil, or_false] at mem
  rcases mem with rfl | rfl | rfl | rfl | rfl | rfl | rfl
  exacts [⟨.idle, rfl⟩, ⟨.sreq, rfl⟩, ⟨.started, rfl⟩, ⟨.addr, rfl⟩, ⟨.txe, rfl⟩, ⟨.txc, rfl⟩, ⟨.rx, rfl⟩]

/-- The access of a control point keeps the history sound: the invariant has the observation right before a clear. -/
theorem Access.openHistory {s u : State} (access : Access s u) (inv : Inv s) (opened : OpenHistory s.hist) :
    OpenHistory u.hist := by
  cases access with
  | clear here =>
    obtain ⟨w, at_clear⟩ := exists_clearPointOf here
    obtain ⟨first, read⟩ := inv.observed w at_clear
    exact opened.clear read first
  | transmit => exact (opened.plain rfl).plain rfl
  | receive =>
    rw [receiveByte_hist, List.append_cons]
    exact (opened.plain rfl).plain rfl
  | status | status2 | stopPending | control | address => exact opened.plain rfl

theorem GoesOn.sound {u t : State} (on : GoesOn u t) (opened : OpenHistory u.hist) : SoundHistory t := by
  cases on with
  | running away hist result =>
    exact OpenHistory.running (hist ▸ opened) fun rest => away (rest ▸ .head _)
  | ended rest outcome hist result => exact soundHistory_ended rest hist (opened.finish outcome)

theorem BusCase.soundHistory {s t : State} (h : BusCase s t) (inv : Inv s) (opened : OpenHistory s.hist) :
    SoundHistory t := by
  obtain ⟨u, access, follow⟩ := h.followUp
  have after := access.openHistory inv opened
  cases follow with
  | goesOn on => exact on.sound after
  | @holds w f =>
    obtain ⟨-, away, -⟩ := phaseOf_inBusCommand w _ (clearPointOf_mem_phaseOf w)
    exact OpenHistory.running (t := holdFault w f _) after away
  | aborts here err => exact soundHistory_ended rfl rfl (after.abort List.getLast?_concat err)

theorem AcceptCase.soundHistory {s u : State} {i : Instr} (accepted : AcceptCase s i u) (ok : HistoryOk s.hist) :
    SoundHistory u := by
  have command := ok.command i
  cases accepted with
  | new | bus => exact command.running (fun rest => by cases rest)
  | release | emptyTransaction => exact soundHistory_ended rfl rfl (command.finish (.inl rfl))
  | emptyRead => exact soundHistory_ended rfl rfl (command.finish (.inr rfl))

/-- Settles O51: each case of a step keeps the history sound, and the environment's move does not touch it. -/
theorem everyStepKeepsTheHistorySound : Obligations.EveryStepKeepsTheHistorySound := by
  intro s t inv ok ends hstep
  have opened : s.ctl ≠ .rest → OpenHistory s.hist := SoundHistory.opened ⟨ok, ends⟩
  obtain ⟨u, rfl, hu⟩ := step_cases hstep
  suffices SoundHistory u from this
  rcases hu with ⟨-, rfl⟩ | ⟨-, i, ws, bs, -, accepted⟩ | ⟨here, rfl⟩ | ⟨here, rfl⟩ | ⟨here, rfl⟩ | ⟨hb, busCase⟩
  · exact ⟨ok, ends⟩
  · exact accepted.soundHistory ok
  · exact ((opened (by simp [here])).plain rfl).running (by simp [newEnable])
  · exact ((opened (by simp [here])).plain rfl).running (by simp [newReset])
  · exact soundHistory_ended rfl rfl (((opened (by simp [here])).plain rfl).finish (.inl rfl))
  · exact busCase.soundHistory inv (opened hb.1)

end Sys2Proof.Machine
end

section
/-! The sequencer's accesses (R140 to R145): the read of STOP_PENDING (O20), the four writes of CTRL (O21), and that no
other point of the block writes CTRL (O42). -/

namespace Sys2Proof.Machine

/-! ## The five points -/

theorem readStopPending_of {s : State} {p : Bool} (answer : s.regs.stopPending = p) :
    readStopPending s = { s with hist := s.hist ++ [.rdStopPending p] } := by
  rw [readStopPending, answer]
  rfl

/-- Settles O20: by the answer of the read, and by the direction where it is 0. -/
theorem idleCondWaitsOutTheStop : Obligations.IdleCondWaitsOutTheStop := by
  intro s
  have run : exec .ctlIdleCond s = .next (idleCond s) := rfl
  refine ⟨fun pending => ?_, fun free read => ?_, fun free write => ?_⟩
  · rw [run, idleCond, readStopPending_of pending, if_pos pending]
    rfl
  · rw [run, idleCond, readStopPending_of free, if_neg (ne_true_of_eq_false free), read]
    rfl
  · rw [run, idleCond, readStopPending_of free, if_neg (ne_true_of_eq_false free), write]
    rfl

/-- GEN_STOP (R145) is one modify and the end of the command (R217), which append an event each. -/
theorem genStop_eq (s : State) :
    genStop s = { s with
      regs := { s.regs with ctrl := { s.regs.ctrl with stopReq := true } },
      hist := s.hist ++ [.modCtrl { stopReq := some true }, .res .ok],
      txn := { s.txn with done := true }, result := some .ok, resOut := s.resOut ++ [0x00], ctl := .rest } := by
  rw [List.append_cons]
  rfl

/-- Settles O21: the point and the micro-operation of each write have one meaning. -/
theorem controlWritesAssignOnlyTheirFields : Obligations.ControlWritesAssignOnlyTheirFields := by
  refine ⟨?_, ?_, ?_, ?_⟩
  · rintro s i (rfl | rfl) <;> rfl
  · rintro s i (rfl | rfl) <;> rfl
  · rintro s i (rfl | rfl) <;> rfl
  · rintro s i (rfl | rfl) <;> exact congrArg Host.Outcome.next (genStop_eq s)

/-! ## The writes of CTRL, point by point -/

/-- The fields of CTRL that a control point assigns (R142 to R145). -/
def controlWrite : Point → Option CtrlAssign
  | .sreqAckEn => some { ackEn := some true }
  | .sreqStart => some { startReq := some true }
  | .armLast => some { ackEn := some false, stopReq := some true }
  | .genStop => some { stopReq := some true }
  | _ => none

/-- An event that neither opens a command nor writes CTRL. -/
def isQuiet : Event → Bool
  | .cmd _ | .modCtrl _ => false
  | _ => true

theorem kind_of_isQuiet {e : Event} (quiet : isQuiet e = true) :
    isCmd e = false ∧ isStart e = false ∧ isStop e = false := by
  cases e with
  | cmd | modCtrl => cases quiet
  | _ => exact ⟨rfl, rfl, rfl⟩

theorem controlWrite_pollPointOf (w : Wait) : controlWrite (pollPointOf w) = none := by cases w <;> rfl

theorem controlWrite_clearPointOf (w : Wait) : controlWrite (clearPointOf w) = none := by cases w <;> rfl

theorem Access.quiet {s u : State} (h : Access s u) (noWrite : controlWrite s.ctl = none) :
    u.regs.ctrl = s.regs.ctrl ∧ ∃ es, u.hist = s.hist ++ es ∧ es.all isQuiet = true := by
  cases h with
  | control here =>
    simp only [List.mem_cons, List.not_mem_nil, or_false] at here
    rcases here with here | here | here | here <;> rw [here] at noWrite <;> cases noWrite
  | transmit => exact ⟨rfl, _, List.append_assoc _ _ _, rfl⟩
  | status | clear | status2 | stopPending | address | receive => exact ⟨rfl, _, rfl, rfl⟩

theorem FollowUp.quiet {s u t : State} (h : FollowUp s u t) :
    ∃ es, t.hist = u.hist ++ es ∧ es.all isQuiet = true := by
  cases h with
  | goesOn on =>
    cases on with
    | running away hist result => exact ⟨[], by rw [hist, List.append_nil], rfl⟩
    | ended rest outcome hist result => exact ⟨_, hist, rfl⟩
  | holds => exact ⟨[], (List.append_nil _).symm, rfl⟩
  | aborts => exact ⟨_, rfl, rfl⟩

/-- What a step at a control point does to CTRL and which writes of CTRL it appends to the history: those of
`controlWrite`. -/
structure ControlWritten (s t : State) : Prop where
  ctrl : t.regs.ctrl = (controlWrite s.ctl).elim s.regs.ctrl (assignCtrl s.regs.ctrl)
  events : ∃ es, t.hist = s.hist ++ (controlWrite s.ctl).toList.map .modCtrl ++ es ∧ es.all isQuiet = true

theorem BusCase.controlWritten_none {s t : State} (h : BusCase s t) (noWrite : controlWrite s.ctl = none) :
    ControlWritten s t := by
  constructor <;> rw [noWrite]
  · obtain ⟨u, access, silent⟩ := h.access
    obtain ⟨-, regs, -⟩ := silent.registers
    rw [regs]
    exact (access.quiet noWrite).1
  · obtain ⟨u, access, follow⟩ := h.followUp
    obtain ⟨-, es, first, quiet⟩ := access.quiet noWrite
    obtain ⟨rs, second, quiet'⟩ := follow.quiet
    exact ⟨es ++ rs, by simp [second, first], by rw [List.all_append, quiet, quiet']; rfl⟩

theorem BusCase.controlWritten {s t : State} (h : BusCase s t) : ControlWritten s t := by
  have noWrite := h.controlWritten_none
  cases h with
  | ackEn here | start here | arm here =>
    constructor <;> rw [here]
    · rfl
    · exact ⟨[], (List.append_nil _).symm, rfl⟩
  | stop here =>
    constructor <;> rw [here]
    · rfl
    · exact ⟨[.res .ok], rfl, rfl⟩
  | test here | hold here => exact noWrite (here ▸ controlWrite_pollPointOf _)
  | ignore here | abort here => exact noWrite (here ▸ controlWrite_clearPointOf _)
  | readyPoll here | readyClear here | readyAck here | sentPoll here | sentClear here | received here | idleCond here
  | startedCond here | address here | send here =>
    exact noWrite (by rw [here]; rfl)

/-- The controller's reset apart (R281), a control point assigns the fields of `controlWrite` and no other (R140). -/
theorem runPoint_ctrl {p : Point} {s t : State} (noReset : p ≠ .newReset) (run : runPoint p s = .next t) :
    t.regs.ctrl = (controlWrite p).elim s.regs.ctrl (assignCtrl s.regs.ctrl) := by
  by_cases bus : inBusCommand p
  · have busCase : BusCase (goto p s) t := bus_case bus ((runPoint_goto bus.1 p s).trans run)
    exact busCase.controlWritten.ctrl
  · rcases rest_or_new_of_not_bus bus with rfl | new
    · cases run; rfl
    · simp only [newPoints, List.mem_cons, List.not_mem_nil, or_false] at new
      rcases new with rfl | rfl | rfl
      · cases run; rfl
      · exact absurd rfl noReset
      · cases run; rfl

/-- Settles O42: read off the assignments of each point. -/
theorem onlySequencerPointsWriteControl : Obligations.OnlySequencerPointsWriteControl := by
  intro p s t noReset run
  rw [exec_pointInstr] at run
  rw [runPoint_ctrl noReset run]
  cases p <;> simp [controlWrite, assignCtrl, beq_eq_decide]

end Sys2Proof.Machine
end

section
/-! START requests follow an idle bus (O52). -/

namespace Sys2Proof.Machine

/-! ## One event more -/

/-- STOP_PENDING has just been read as 0, with at most the acknowledge-enable after it (R141, R142). -/
def IdleSeen (h : List Event) : Prop :=
  h.getLast? = some (.rdStopPending false) ∨ ∃ l, h = l ++ [.rdStopPending false, .modCtrl { ackEn := some true }]

theorem StartsAfterIdle.snoc {h : List Event} {e : Event} (starts : StartsAfterIdle h)
    (seen : isStart e = true → IdleSeen h) : StartsAfterIdle (h ++ [e]) := by
  intro j found
  rcases getElem?_snoc found with old | ⟨rfl, rfl⟩
  · obtain ⟨k, next, read⟩ := starts j old
    refine ⟨k, next, read.imp (getElem?_snoc_old e) ?_⟩
    rintro ⟨ack, m, before, idle⟩
    exact ⟨getElem?_snoc_old e ack, m, before, getElem?_snoc_old e idle⟩
  · rcases seen rfl with last | ⟨l, rfl⟩
    · obtain ⟨k, next, read⟩ := getElem?_of_getLast? last
      exact ⟨k, next, .inl (getElem?_snoc_old _ read)⟩
    · exact ⟨l.length + 1, by simp, .inr ⟨by simp, l.length, rfl, by simp⟩⟩

theorem StartsAfterIdle.quiet {h es : List Event} (starts : StartsAfterIdle h) (quiet : es.all isQuiet = true) :
    StartsAfterIdle (h ++ es) := by
  induction es generalizing h with
  | nil => rwa [List.append_nil]
  | cons e es ih =>
    obtain ⟨first, others⟩ := (Bool.and_eq_true _ _).mp quiet
    obtain ⟨-, noStart, -⟩ := kind_of_isQuiet first
    rw [List.append_cons]
    exact ih (starts.snoc fun start => by simp [noStart] at start) others

/-! ## Every step keeps the START requests behind an idle bus -/

/-- The two points that the read of STOP_PENDING lets the block go on to (R141). -/
def startPoints : List Point := [.sreqAckEn, .sreqStart]

theorem startReady_away {t : State} (away : t.ctl ∉ startPoints) : StartReady t :=
  ⟨fun here => absurd (here ▸ .head _) away, fun here => absurd (here ▸ .tail _ (.head _)) away⟩

theorem testTargets_away_start (w : Wait) : ∀ p ∈ testTargets w, p ∉ startPoints := by cases w <;> decide

theorem clearPointOf_away_start (w : Wait) : clearPointOf w ∉ startPoints := by cases w <;> decide

theorem dispatch_away_start {u t : State} (go : dispatch u = .next t) : t.ctl ∉ startPoints := by
  obtain ⟨v, op, -, -, exit⟩ := dispatch_next go
  cases exit <;> simp [startPoints]

/-- IDLE_COND (R141) goes on to a START request only on the answer 0. -/
theorem startReady_idleCond (s : State) : StartReady (idleCond s) := by
  cases pending : s.regs.stopPending with
  | true => exact startReady_away (by simp [idleCond, pending, startPoints])
  | false =>
    have last : (idleCond s).hist.getLast? = some (.rdStopPending false) :=
      List.getLast?_concat.trans (by rw [pending])
    exact ⟨fun _ => last, fun _ => .inl last⟩

/-- SREQ_ACK_EN (R142) keeps the read right before it. -/
theorem startReady_setAck {s : State} (last : s.hist.getLast? = some (.rdStopPending false)) :
    StartReady (setAck s) := by
  obtain ⟨l, hist⟩ := List.getLast?_eq_some_iff.1 last
  refine ⟨fun here => (by cases here), fun _ => .inr ⟨l, ?_⟩⟩
  simp [setAck, hist]

theorem BusCase.startReady {s t : State} (h : BusCase s t) (ready : StartReady s) : StartReady t := by
  cases h with
  | idleCond => exact startReady_idleCond s
  | ackEn here => exact startReady_setAck (ready.1 here)
  | test _ _ target | ignore _ _ target => exact startReady_away (testTargets_away_start _ _ target)
  | @hold w => exact startReady_away (clearPointOf_away_start w)
  | readyPoll _ _ go | readyClear _ _ go | readyAck _ go | sentPoll _ _ go | sentClear _ _ go | received _ _ go =>
    exact startReady_away (dispatch_away_start go)
  | startedCond =>
    refine startReady_away ?_
    unfold Machine.startedCond
    split <;> simp [startPoints]
  | abort | send => exact startReady_away (by simp [startPoints])
  | start => exact startReady_away (by simp [startPoints, genStart])
  | address => exact startReady_away (by simp [startPoints, sendAddress])
  | arm => exact startReady_away (by simp [startPoints, Machine.armLast])
  | stop => exact startReady_away (by simp [startPoints, Machine.genStop])

/-- Only SREQ_START makes a START request (R143). -/
theorem controlWrite_start {p : Point} {a : CtrlAssign} (write : controlWrite p = some a)
    (start : isStart (.modCtrl a) = true) : p = .sreqStart := by
  cases p with
  | sreqStart => rfl
  | sreqAckEn | armLast | genStop => cases write; cases start
  | _ => cases write

theorem BusCase.startsAfterIdle {s t : State} (h : BusCase s t) (starts : StartsAfterIdle s.hist)
    (ready : StartReady s) : StartsAfterIdle t.hist := by
  obtain ⟨es, hist, quiet⟩ := h.controlWritten.events
  rw [hist]
  refine StartsAfterIdle.quiet ?_ quiet
  cases write : controlWrite s.ctl with
  | none => exact starts.quiet (es := []) rfl
  | some a => exact starts.snoc fun start => ready.2 (controlWrite_start write start)

/-- A command that is accepted makes no START request and stands at neither point before one. -/
theorem AcceptCase.startsAfterIdle {s u : State} {i : Instr} (accepted : AcceptCase s i u)
    (starts : StartsAfterIdle s.hist) : StartsAfterIdle u.hist ∧ StartReady u := by
  have command : StartsAfterIdle (s.hist ++ [.cmd i]) := starts.snoc fun start => by cases start
  cases accepted with
  | new | bus => exact ⟨command, startReady_away (by simp [startPoints])⟩
  | release | emptyRead | emptyTransaction =>
    exact ⟨command.snoc fun start => (by cases start), startReady_away (by simp [startPoints])⟩

/-- Settles O52: each case of a step, by the events it appends and the point it goes on to. -/
theorem startsFollowAnIdleBus : Obligations.StartsFollowAnIdleBus := by
  intro s t _ starts ready hstep
  obtain ⟨u, rfl, hu⟩ := step_cases hstep
  suffices StartsAfterIdle u.hist ∧ StartReady u from this
  rcases hu with ⟨-, rfl⟩ | ⟨-, i, ws, bs, -, accepted⟩ | ⟨-, rfl⟩ | ⟨-, rfl⟩ | ⟨-, rfl⟩ | ⟨-, busCase⟩
  · exact ⟨starts, ready⟩
  · exact accepted.startsAfterIdle starts
  · exact ⟨starts.quiet (es := [.collabClockEnable]) rfl, startReady_away (by simp [newEnable, startPoints])⟩
  · exact ⟨starts.quiet (es := [.collabClockReset]) rfl, startReady_away (by simp [newReset, startPoints])⟩
  · refine ⟨?_, startReady_away (by simp [newApply, startPoints])⟩
    exact (starts.quiet (es := [.wrCfg _]) rfl).quiet (es := [.res .ok]) rfl
  · exact ⟨busCase.startsAfterIdle starts ready, busCase.startReady ready⟩

end Sys2Proof.Machine
end

section
/-! One STOP request in a bus command that ends in `Ok`, none before its time (O53). -/

namespace Sys2Proof.Machine

/-! ## The STOP requests of a history -/

/-- In the segment of the command in progress STOP has been requested once, by the last write of CTRL, where `made` says
so, and not at all where it does not. -/
structure StopMade (made : Bool) (h : List Event) : Prop where
  count : nStop (segmentOf h) = (if made then 1 else 0)
  last : made = true → stopIsLast (segmentOf h) = true

theorem nStop_quiet {es : List Event} (quiet : es.all isQuiet = true) : nStop es = 0 := by
  refine List.countP_eq_zero.2 fun e mem => ?_
  obtain ⟨-, -, noStop⟩ := kind_of_isQuiet (List.all_eq_true.1 quiet e mem)
  simp [noStop]

theorem stopIsLast_quiet (l : List Event) {es : List Event} (quiet : es.all isQuiet = true) :
    stopIsLast (l ++ es) = stopIsLast l := by
  unfold stopIsLast
  rw [List.filterMap_append, (List.filterMap_eq_nil_iff (l := es)).2 ?_, List.append_nil]
  intro e mem
  have quiet := List.all_eq_true.1 quiet e mem
  cases e with
  | modCtrl => cases quiet
  | _ => rfl

theorem stopIsLast_write (l : List Event) (a : CtrlAssign) :
    stopIsLast (l ++ [.modCtrl a]) = (a.stopReq == some true) := by
  unfold stopIsLast
  simp

/-- A `Cmd` opens a segment without a STOP request. -/
theorem stopMade_command (h : List Event) (c : Instr) : StopMade false (h ++ [.cmd c]) where
  count := by rw [segmentOf_cmd]; rfl
  last := nofun

theorem StopMade.quiet {made : Bool} {h es : List Event} (stop : StopMade made h) (quiet : es.all isQuiet = true) :
    StopMade made (h ++ es) := by
  have segment := segmentOf_append h es fun e mem => (kind_of_isQuiet (List.all_eq_true.1 quiet e mem)).1
  constructor <;> rw [segment]
  · rw [nStop_append, nStop_quiet quiet]
    exact stop.count
  · rw [stopIsLast_quiet _ quiet]
    exact stop.last

/-- A write of CTRL where STOP has not been requested. -/
theorem StopMade.write {h : List Event} (stop : StopMade false h) (a : CtrlAssign) :
    StopMade (a.stopReq == some true) (h ++ [.modCtrl a]) := by
  have segment := segmentOf_append h [.modCtrl a] (by simp [isCmd])
  constructor <;> rw [segment]
  · rw [nStop_append, stop.count]
    simp [nStop, isStop, List.countP_cons]
  · rw [stopIsLast_write]
    exact id

/-! ## The count at a control point and at REST -/

theorem StopCount.made {s : State} (count : StopCount s) (away : s.ctl ≠ .rest) : StopMade (armed s) s.hist :=
  ⟨count.running away, count.armedLast away⟩

theorem StopMade.running {t : State} (stop : StopMade (armed t) t.hist) (away : t.ctl ≠ .rest) : StopCount t where
  running _ := stop.count
  armedLast _ := stop.last
  succeeded rest := absurd rest away
  ended rest := absurd rest away

theorem StopMade.ended {made : Bool} {t : State} (stop : StopMade made t.hist) (rest : t.ctl = .rest)
    (ok : isBusCmd t.cmd = true → t.result = some .ok → (made = true ↔ t.ops ≠ [])) : StopCount t where
  running away := absurd rest away
  armedLast away := absurd rest away
  succeeded _ bus result := by
    have made_iff := ok bus result
    refine ⟨?_, fun nonempty => stop.last (made_iff.2 nonempty)⟩
    rw [stop.count]
    simp only [made_iff, ne_eq, ite_not]
  ended _ := by
    rw [stop.count]
    split <;> omega

/-- What a bus command in which STOP has been requested as `made` says has come to: it goes on, after ARM_LAST exactly
where STOP has been requested, or it has ended, in `Ok` only where STOP has been requested. -/
inductive StopFits (made : Bool) (t : State) : Prop
  | running (away : t.ctl ≠ .rest) (same : armed t = made)
  | ended (rest : t.ctl = .rest) (ok : t.result = some .ok → made = true)

theorem StopFits.count {made : Bool} {t : State} (fits : StopFits made t) (stop : StopMade made t.hist)
    (nonempty : t.ops ≠ []) : StopCount t := by
  cases fits with
  | running away same => exact StopMade.running (same ▸ stop) away
  | ended rest ok => exact stop.ended rest fun _ result => ⟨fun _ => nonempty, fun _ => ok result⟩

/-! ## Where the block stands after ARM_LAST -/

theorem armed_away {s : State} (away : s.ctl ∉ recvPoints) : armed s = false := by
  simp [armed, away]

theorem armed_recv {s : State} (here : s.ctl ∈ recvPoints) : armed s = (isFinal s && lastByteNext s) := by
  simp [armed, here]

/-- STOP is requested neither in an address phase (R160) nor before the end of a Write (R190). -/
theorem armed_address {s : State} (here : s.ctl ∈ addressPoints) : armed s = false := by
  obtain ⟨-, noRecv, -⟩ := addressPoints_apart _ here
  exact armed_away noRecv

theorem armed_send {s : State} (here : s.ctl ∈ sendPoints) : armed s = false := by
  obtain ⟨-, noRecv, -⟩ := sendPoints_apart _ here
  exact armed_away noRecv

/-- Within one procedure, at the same byte, STOP stays requested or not. -/
theorem armed_within {w : Wait} {s t : State} (hs : s.ctl ∈ phaseOf w) (ht : t.ctl ∈ phaseOf w)
    (same : SamePosition s t) : armed t = armed s := by
  have byte : (isFinal t && lastByteNext t) = (isFinal s && lastByteNext s) := by
    simp only [isFinal, lastByteNext, currentOp, same.ops, same.opIdx, same.byteIdx]
  cases w
  case idle | sreq | started | addr => rw [armed_address hs, armed_address ht]
  case txe | txc => rw [armed_send hs, armed_send ht]
  case rx => rw [armed_recv hs, armed_recv ht, byte]

/-- The final Read, which is not empty, is complete. -/
def ReadComplete (u : State) : Prop :=
  ∃ n, currentOp u = some (.read n) ∧ 0 < n ∧ n ≤ u.byteIdx ∧ isFinal u = true

/-- After the last byte of the final Read `dispatch` ends the command (R191, R214). -/
theorem dispatch_readComplete {u : State} (complete : ReadComplete u) : dispatch u = .next (finishOk u) := by
  obtain ⟨n, here, pos, past, last⟩ := complete
  rw [dispatch_of_currentOp here, (isFinal_iff_drop here).1 last]
  simp only [dispatchOn, if_neg pos.ne', if_neg (Nat.not_lt.2 past)]

/-- Elsewhere `dispatch` does not end the command in `Ok`, and goes to a byte that is not the last of the final Read: it
leaves that one to ARM_LAST. -/
theorem dispatch_stopFits {u t : State} (go : dispatch u = .next t) (incomplete : ¬ ReadComplete u) :
    StopFits false t := by
  obtain ⟨v, op, adv, here, exit⟩ := dispatch_next go
  cases exit with
  | send | stop | arm => exact .running (by simp) (armed_away (by simp [recvPoints]))
  | turn => exact .running (by simp) (armed_away (by simp [recvPoints]))
  | empty => exact .ended rfl (by simp)
  | @receive n more plain =>
    have next : lastByteNext v = (v.byteIdx + 1 == n) := lastByteNext_of_currentOp here
    have notLast : (isFinal v && lastByteNext v) = false := by simpa [next] using plain
    exact .running (by simp) ((armed_recv (.head _)).trans notLast)
  | finish pos past last =>
    rcases adv.byteIdx_zero with rfl | zero
    · exact absurd ⟨_, here, pos, past, last⟩ incomplete
    · omega

/-! ## Every step keeps the STOP count -/

/-- STOP has been requested once the control point in `ctl` has made its access. -/
def stopAfter (s : State) : Bool := armed s || (controlWrite s.ctl).any fun a => a.stopReq == some true

/-- At a point that writes CTRL no byte is awaited. -/
theorem armed_of_controlWrite {s : State} {a : CtrlAssign} (write : controlWrite s.ctl = some a) :
    armed s = false := by
  refine armed_away fun recv => ?_
  simp only [recvPoints, List.mem_cons, List.not_mem_nil, or_false] at recv
  rcases recv with here | here | here <;> rw [here] at write <;> cases write

theorem BusCase.stopMade {s t : State} (h : BusCase s t) (stop : StopMade (armed s) s.hist) :
    StopMade (stopAfter s) t.hist := by
  obtain ⟨es, hist, quiet⟩ := h.controlWritten.events
  rw [hist]
  refine StopMade.quiet ?_ quiet
  cases write : controlWrite s.ctl with
  | none => simpa [stopAfter, write] using stop
  | some a =>
    rw [armed_of_controlWrite write] at stop
    simpa [stopAfter, write, armed_of_controlWrite write] using stop.write a

/-- The points of a procedure that write CTRL at all write it for a START request (R142, R143). -/
theorem controlWrite_phaseOf (w : Wait) :
    ∀ p ∈ phaseOf w, ((controlWrite p).any fun a => a.stopReq == some true) = false := by
  cases w <;> decide

theorem stopAfter_eq_armed {w : Wait} {s : State} (hs : s.ctl ∈ phaseOf w) : stopAfter s = armed s := by
  rw [stopAfter, controlWrite_phaseOf w _ hs, Bool.or_false]

/-- From one point of a procedure to another at the same byte. -/
theorem stopFits_within {w : Wait} {s t : State} (hs : s.ctl ∈ phaseOf w) (ht : t.ctl ∈ phaseOf w)
    (same : SamePosition s t) : StopFits (stopAfter s) t := by
  obtain ⟨-, away, -⟩ := phaseOf_inBusCommand w _ ht
  exact .running away ((armed_within hs ht same).trans (stopAfter_eq_armed hs).symm)

theorem Inv.stopFits_ready {s u t : State} (inv : Inv s) (hs : s.ctl ∈ addressPoints) (go : dispatch u = .next t)
    (same : SamePosition s u) : StopFits (stopAfter s) t := by
  obtain ⟨op, -, place⟩ := inv.place (phaseOf_inBusCommand .addr _ hs).2
  obtain ⟨zero, -⟩ := (placeOk_address hs).1 place
  rw [stopAfter_eq_armed (w := .addr) hs, armed_address hs]
  refine dispatch_stopFits go ?_
  rintro ⟨n, -, pos, past, -⟩
  rw [same.byteIdx] at past
  omega

theorem Inv.stopFits_sent {s u t : State} (inv : Inv s) (hs : s.ctl ∈ sendPoints) (go : Machine.byteDone u = .next t)
    (same : SamePosition s u) : StopFits (stopAfter s) t := by
  obtain ⟨op, serves, place⟩ := inv.place (phaseOf_inBusCommand .txc _ hs).2
  obtain ⟨write, -⟩ := (placeOk_send hs).1 place
  obtain ⟨here, -⟩ := same.serves serves
  rw [stopAfter_eq_armed (w := .txc) hs, armed_send hs]
  refine dispatch_stopFits go ?_
  rintro ⟨n, read, -⟩
  cases here.symm.trans read
  cases write

/-- The byte that RX_READ takes completes the final Read exactly where it was awaited after ARM_LAST. -/
theorem armed_iff_readComplete {s : State} {n : Nat} (here : s.ctl = .rxRead) (read : currentOp s = some (.read n))
    (more : s.byteIdx < n) :
    armed s = true ↔ ReadComplete { receiveByte s with byteIdx := (receiveByte s).byteIdx + 1 } := by
  rw [armed_recv (by rw [here]; decide), lastByteNext_of_currentOp read, Bool.and_eq_true]
  constructor
  · rintro ⟨last, next⟩
    have next : s.byteIdx + 1 = n := by simpa [Operation.dir, Operation.length] using next
    exact ⟨n, read, by omega, next.ge, last⟩
  · rintro ⟨m, read', -, past, last⟩
    cases read.symm.trans read'
    have past : n ≤ s.byteIdx + 1 := past
    have next : s.byteIdx + 1 = n := by omega
    exact ⟨last, by simp [Operation.dir, Operation.length, next]⟩

theorem Inv.stopFits_received {s t : State} (inv : Inv s) (here : s.ctl = .rxRead)
    (go : Machine.byteDone (Machine.receiveByte s) = .next t) : StopFits (stopAfter s) t := by
  have hs : s.ctl ∈ phaseOf .rx := by rw [here]; decide
  obtain ⟨op, ⟨current, -⟩, place⟩ := inv.place (phaseOf_inBusCommand .rx _ hs).2
  obtain ⟨read, more⟩ := (placeOk_recv hs).1 place
  rw [stopAfter_eq_armed hs]
  cases op with
  | write bs => cases read
  | read n =>
    have complete := armed_iff_readComplete here current more
    cases last : armed s with
    | true =>
      cases (dispatch_readComplete (complete.1 last)).symm.trans go
      exact .ended rfl fun _ => rfl
    | false => exact dispatch_stopFits go fun done => by simp [complete.2 done] at last

/-- ARM_LAST (R144) requests STOP, and the byte awaited after it is the last of the final Read. -/
theorem Inv.stopFits_arm {s : State} (inv : Inv s) (here : s.ctl = .armLast) :
    StopFits (stopAfter s) (Machine.armLast s) := by
  obtain ⟨op, ⟨current, -⟩, place⟩ := inv.place (s := s) (by rw [here]; exact ⟨by decide, by decide⟩)
  obtain ⟨read, next, last⟩ := (placeOk_arm here).1 place
  have byte : lastByteNext s = true := by simp [lastByteNext_of_currentOp current, read, next]
  have made : stopAfter s = true := by simp [stopAfter, here, controlWrite]
  refine .running (by simp [Machine.armLast]) ?_
  rw [made]
  exact (armed_recv (.head _)).trans (by rw [Bool.and_eq_true]; exact ⟨last, byte⟩)

theorem BusCase.stopFits {s t : State} (h : BusCase s t) (inv : Inv s) : StopFits (stopAfter s) t := by
  cases h with
  | @test w p here clean target =>
    exact stopFits_within (here ▸ pollPointOf_mem_phaseOf w) (testTargets_mem_phaseOf w p target).1
      ⟨id, rfl, rfl, rfl, rfl⟩
  | @hold w _ here =>
    exact stopFits_within (here ▸ pollPointOf_mem_phaseOf w) (clearPointOf_mem_phaseOf w) ⟨id, rfl, rfl, rfl, rfl⟩
  | @ignore w p here _ target =>
    exact stopFits_within (here ▸ clearPointOf_mem_phaseOf w) (testTargets_mem_phaseOf w p target).1
      ⟨id, rfl, rfl, rfl, rfl⟩
  | abort => exact .ended (raise_ctl _ _) (by simp)
  | readyPoll here _ go | readyClear here _ go | readyAck here go =>
    exact inv.stopFits_ready (by rw [here]; decide) go ⟨id, rfl, rfl, rfl, rfl⟩
  | sentPoll here _ go | sentClear here _ go =>
    exact inv.stopFits_sent (by rw [here]; decide) go ⟨id, rfl, rfl, rfl, rfl⟩
  | received here _ go => exact inv.stopFits_received here go
  | idleCond here =>
    refine stopFits_within (w := .idle) (by rw [here]; decide) ?_ ⟨id, rfl, rfl, rfl, rfl⟩
    unfold Machine.idleCond
    split <;> [skip; split] <;> simp [phaseOf, addressPoints]
  | startedCond here =>
    refine stopFits_within (w := .started) (by rw [here]; decide) ?_ ⟨id, rfl, rfl, rfl, rfl⟩
    unfold Machine.startedCond
    split <;> simp [phaseOf, addressPoints]
  | ackEn here | start here | address here =>
    refine stopFits_within (w := .addr) (by rw [here]; decide) ?_ ⟨id, rfl, rfl, rfl, rfl⟩
    simp [setAck, genStart, sendAddress, phaseOf, addressPoints]
  | send here =>
    exact stopFits_within (w := .txc) (by rw [here]; decide) (by decide : Point.txcPoll ∈ _) ⟨id, rfl, rfl, rfl, rfl⟩
  | arm here => exact inv.stopFits_arm here
  | stop here => exact .ended rfl fun _ => by simp [stopAfter, here, controlWrite]

theorem BusCase.stopCount {s t : State} (h : BusCase s t) (inv : Inv s) (bus : inBusCommand s.ctl)
    (count : StopCount s) : StopCount t := by
  obtain ⟨op, ⟨current, -⟩, -⟩ := inv.place bus
  obtain ⟨-, -, -, ops, -⟩ := h.sameLatch
  refine (h.stopFits inv).count (h.stopMade (count.made bus.1)) fun empty => ?_
  simp [currentOp, ← ops, empty] at current

theorem AcceptCase.stopCount {s u : State} {i : Instr} (accepted : AcceptCase s i u) : StopCount u := by
  have command := stopMade_command s.hist i
  cases accepted with
  | new | bus => exact StopMade.running command (by simp)
  | release => exact (command.quiet (es := [.res .ok]) rfl).ended rfl nofun
  | emptyRead => exact (command.quiet (es := [.res (.err .overrun)]) rfl).ended rfl nofun
  | emptyTransaction => exact (command.quiet (es := [.res .ok]) rfl).ended rfl (by simp)

/-- During a NEW STOP has not been requested. -/
theorem StopCount.made_new {s : State} (count : StopCount s) (new : s.ctl ∈ newPoints) : StopMade false s.hist := by
  obtain ⟨away, noByte⟩ := (by decide : ∀ p ∈ newPoints, p ≠ .rest ∧ p ∉ recvPoints) _ new
  exact armed_away noByte ▸ count.made away

/-- The count speaks of nothing that a move of the environment changes. -/
theorem StopCount.envStep {u : State} (count : StopCount u) : StopCount (envStep u) :=
  ⟨count.running, count.armedLast, count.succeeded, count.ended⟩

/-- Settles O53: each case of a step, by the write of CTRL that it makes and where it leaves the command. -/
theorem oneStopPerSuccessfulCommand : Obligations.OneStopPerSuccessfulCommand := by
  intro s t inv count hstep
  obtain ⟨u, rfl, hu⟩ := step_cases hstep
  refine StopCount.envStep ?_
  rcases hu with ⟨-, rfl⟩ | ⟨-, i, ws, bs, -, accepted⟩ | ⟨here, rfl⟩ | ⟨here, rfl⟩ | ⟨here, rfl⟩ | ⟨bus, busCase⟩
  · exact count
  · exact accepted.stopCount
  · have made := count.made_new (by rw [here]; decide)
    exact StopMade.running (made.quiet (es := [.collabClockEnable]) rfl) (by simp [newEnable])
  · have made := count.made_new (by rw [here]; decide)
    exact StopMade.running (made.quiet (es := [.collabClockReset]) rfl) (by simp [newReset])
  · have new : s.ctl ∈ newPoints := by rw [here]; decide
    obtain ⟨cmd, -⟩ := inv.building new
    have made := (count.made_new new).quiet (es := [.wrCfg (Config.timing s.cfg.mode s.cfg.clockHz)]) rfl
    exact (made.quiet (es := [.res .ok]) rfl).ended rfl fun isBus => by simp [newApply, cmd, isBusCmd] at isBus
  · exact busCase.stopCount inv bus count

end Sys2Proof.Machine
end

section
/-! The address phase (R163 to R168): the read of STS2 (O22), the address byte (O23), the discarded read (O34), and that
a bus that never comes free keeps the block in W_STARTED (O58). -/

namespace Sys2Proof.Machine

/-! ## STARTED_COND -/

/-- MASTER = 1 with BUSY = 0 is one of the four answers of STS2. -/
theorem masterFree_iff (r : Status2) : masterFree r = true ↔ r = ⟨true, false⟩ := by
  obtain ⟨master, busy⟩ := r
  simp [masterFree]

theorem startedCond_free {s : State} (free : masterFree s.regs.sts2 = true) :
    startedCond s = goto .addrWrite (readStatus2 s) := by
  rw [startedCond, if_pos free]

theorem startedCond_busy {s : State} (busy : masterFree s.regs.sts2 = false) :
    startedCond s = goto .startedPoll (readStatus2 s) := by
  rw [startedCond, if_neg (ne_true_of_eq_false busy)]

/-- Settles O22: by the answer of the read. -/
theorem startedCondLeavesOnMasterAndFreeBus : Obligations.StartedCondLeavesOnMasterAndFreeBus := by
  intro s
  have run : exec .ctlStartedCond s = .next (startedCond s) := rfl
  refine ⟨fun free => ?_, fun other => ?_⟩
  · rw [run, startedCond_free ((masterFree_iff _).2 free), readStatus2, free]
    rfl
  · have busy : masterFree s.regs.sts2 = false := Bool.eq_false_iff.2 (mt (masterFree_iff _).1 other)
    rw [run, startedCond_busy busy]
    rfl

/-! ## ADDR_WRITE -/

/-- The write of an address byte is one access and the next point (R164). -/
theorem sendAddress_eq (b : Byte) (s : State) :
    sendAddress b s = { s with
      regs := { s.regs with txData := b }, hist := s.hist ++ [.wrData b], ctl := .addrPoll } := rfl

/-- ADDR_WRITE writes the byte of its address and direction, as the row of that byte does (R98). -/
theorem exec_ctlAddrWrite {s : State} {d : Dir} (direction : s.dir = d) :
    exec .ctlAddrWrite s = .next (sendAddress (addrByteBits (s.txn.addr.extractLsb' 0 7) d) s) := by
  rw [← direction]
  rfl

/-- Settles O23: all three rows are the one write, of the byte that each spells. -/
theorem addressWritePutsTheAddressByteOut : Obligations.AddressWritePutsTheAddressByteOut :=
  ⟨fun _ => exec_ctlAddrWrite, fun _ => exec_ctlAddrWrite,
    fun s => (exec_ctlAddrWrite rfl).trans (congrArg Host.Outcome.next (sendAddress_eq _ s)),
    fun s x => congrArg Host.Outcome.next (sendAddress_eq (x ++ 0#1) s),
    fun s x => congrArg Host.Outcome.next (sendAddress_eq (x ++ 1#1) s)⟩

/-! ## ADDR_ACKCLR -/

/-- Settles O34: the point asks for its parameter before the access. -/
theorem ackClearDiscardsItsRead : Obligations.AckClearDiscardsItsRead := by
  intro s
  have run : exec .ctlAddrAckclr s = ackClear s := rfl
  refine ⟨fun present => ?_, fun absent => ?_⟩
  · rw [run, ackClear, if_pos present]
    rfl
  · rw [run, ackClear, if_neg (ne_true_of_eq_false absent)]

/-! ## A bus that never comes free -/

/-- The block waits in W_STARTED, and neither the answers at hand nor those laid down let it exit (R163). -/
structure Hangs (s : State) : Prop where
  waits : s.ctl = .startedPoll ∨ s.ctl = .startedCond
  busy : KeepsBusy s.params s.regs.sts s.regs.sts2
  laid : ∀ m ∈ s.env, KeepsBusy s.params m.sts m.sts2

theorem step_startedPoll_clean {s : State} (here : s.ctl = .startedPoll) (clean : Clean s) :
    step s = .next (envStep (goto .startedCond (readStatus s))) := by
  have poll : runPoint .startedPoll s = .next (goto .startedCond (readStatus s)) := pollPoint_clean .started clean
  rw [step_at_point (by simp [here]), here, poll]
  rfl

theorem step_startedCond_busy {s : State} (here : s.ctl = .startedCond) (busy : masterFree s.regs.sts2 = false) :
    step s = .next (envStep (goto .startedPoll (readStatus2 s))) := by
  have cond : runPoint .startedCond s = .next (goto .startedPoll (readStatus2 s)) :=
    congrArg Host.Outcome.next (startedCond_busy busy)
  rw [step_at_point (by simp [here]), here, cond]
  rfl

/-- The wait goes round its two points, and neither delivers a result (R270). -/
theorem Hangs.step_waits {s : State} (h : Hangs s) :
    ∃ t, step s = .next t ∧ (t.ctl = .startedPoll ∨ t.ctl = .startedCond) ∧ t.result = s.result ∧
      t.resOut = s.resOut := by
  obtain ⟨clean, busy⟩ := h.busy
  rcases h.waits with here | here
  · exact ⟨_, step_startedPoll_clean here clean, .inr rfl, rfl, rfl⟩
  · exact ⟨_, step_startedCond_busy here busy, .inl rfl, rfl, rfl⟩

/-- The answers after a step are those of the move laid down for it. -/
theorem Hangs.next {s t : State} {m : EnvMove} {rest : List EnvMove} (h : Hangs s) (laid : s.env = m :: rest)
    (go : step s = .next t) (waits : t.ctl = .startedPoll ∨ t.ctl = .startedCond) : Hangs t ∧ t.env = rest := by
  obtain ⟨env, params, sts, sts2, -⟩ := step_environment go laid
  have moves := h.laid
  rw [laid, List.forall_mem_cons] at moves
  refine ⟨⟨waits, ?_, ?_⟩, env⟩
  · rw [params, sts, sts2]
    exact moves.1
  · rw [params, env]
    exact moves.2

/-- A run goes on from the state after its first step. -/
theorem run_succ_of_step {s t : State} (go : step s = .next t) (k : Nat) :
    Host.Core.run Sys2Proof.core (k + 1) s = Host.Core.run Sys2Proof.core k t := by
  simp only [Host.Core.run, core, go]

/-- Every laid-down move is one step more of the wait. -/
theorem Hangs.run {k : Nat} : ∀ {s : State}, Hangs s → k ≤ s.env.length →
    ∃ t, Host.Core.run Sys2Proof.core k s = .next t ∧ (t.ctl = .startedPoll ∨ t.ctl = .startedCond) ∧
      t.result = s.result ∧ t.resOut = s.resOut := by
  induction k with
  | zero => exact fun {s} h _ => ⟨s, rfl, h.waits, rfl, rfl⟩
  | succ k ih =>
    intro s h enough
    obtain ⟨m, rest, laid⟩ := List.exists_cons_of_length_pos (Nat.zero_lt_of_lt enough)
    obtain ⟨t, go, waits, result, resOut⟩ := h.step_waits
    obtain ⟨h', env⟩ := h.next laid go waits
    have enough' : k ≤ t.env.length := by
      rw [laid, List.length_cons] at enough
      rw [env]
      exact Nat.le_of_succ_le_succ enough
    obtain ⟨u, run, waits', result', resOut'⟩ := ih h' enough'
    exact ⟨u, (run_succ_of_step go k).trans run, waits', result'.trans result, resOut'.trans resOut⟩

/-- Settles O58: an environment that keeps the bus busy makes the block hang for as long as it is laid down. -/
theorem busyBusHangsForEver : Obligations.BusyBusHangsForEver :=
  fun _ _ waits busy moves enough => Hangs.run ⟨waits, busy, moves⟩ enough

end Sys2Proof.Machine
end

section
/-! The byte transfer engine: the byte that TX_WRITE sends (O30), the byte that RX_READ stores (O31), and the data phase
that each data-phase micro-operation runs (O38). -/

namespace Sys2Proof.Machine

/-! ## One byte -/

theorem sliceByte_of_write {s : State} {j : Nat} {bs : List Byte} (here : s.ops[j]? = some (.write bs)) (i : Nat) :
    sliceByte s j i = bs[i]? := by
  simp only [sliceByte, here]

theorem inReadBuffer_of_read {s : State} {j i n : Nat} (here : s.ops[j]? = some (.read n)) (room : i < n) :
    inReadBuffer s j i = true := by
  simp only [inReadBuffer, here]
  exact decide_eq_true room

theorem txWrite_of_sliceByte {s : State} {b : Byte} (byte : sliceByte s s.opIdx s.byteIdx = some b) :
    txWrite s = .next (goto .txcPoll (transmitByte b s)) := by
  rw [txWrite, byte]

theorem rxRead_of_inReadBuffer {s : State} (room : inReadBuffer s s.opIdx s.byteIdx = true) :
    rxRead s = byteDone (receiveByte s) := by
  rw [rxRead, if_pos room]

/-- Sending a byte is the read of the slice and the write of DATA (R182). -/
theorem transmitByte_eq (b : Byte) (s : State) :
    transmitByte b s = { s with
      regs := { s.regs with txData := b }, hist := s.hist ++ [.bufRd s.opIdx s.byteIdx b, .wrData b] } := by
  rw [List.append_cons]
  rfl

/-- Settles O30: the slice holds the byte at `byte_idx`. -/
theorem txWriteSendsTheCurrentByte : Obligations.TxWriteSendsTheCurrentByte := by
  refine ⟨rfl, fun s bs b here byte => ?_⟩
  have run : exec .ctlTxWrite s = txWrite s := rfl
  rw [run, txWrite_of_sliceByte ((sliceByte_of_write here _).trans byte), transmitByte_eq]
  rfl

/-- Settles O31: the buffer has room at `byte_idx`, and the one write of memory is at that byte's address. -/
theorem rxReadStoresTheReceivedByte : Obligations.RxReadStoresTheReceivedByte := by
  refine ⟨rfl, fun s n here room => ?_⟩
  have run : exec .ctlRxRead s = byteDone (receiveByte s) := rxRead_of_inReadBuffer (inReadBuffer_of_read here room)
  exact ⟨(receiveByte s).mem, run, memRead_memWrite_same _ _ _, fun _ => memRead_memWrite_other _ _, memWrite_wf _ _⟩

/-! ## What is left of a data phase -/

theorem finished_iff {d : Dir} {s : State} :
    finished d s = true ↔ ∃ op, currentOp s = some op ∧ op.dir = d ∧ op.length ≤ s.byteIdx := by
  cases h : currentOp s with
  | none => simp [finished, h]
  | some op => simp [finished_of_currentOp h]

theorem lastByteNext_iff {s : State} :
    lastByteNext s = true ↔ currentOp s = some (.read (s.byteIdx + 1)) := by
  cases h : currentOp s with
  | none => simp [lastByteNext, h]
  | some op =>
    cases op with
    | write bs => simp [lastByteNext, h]
    | read n =>
      simp only [lastByteNext, h, beq_iff_eq, Option.some.injEq, Operation.read.injEq]
      exact eq_comm

/-- Nothing is finished while bytes of the current operation are left. -/
theorem not_finished_of_more {s : State} {op : Operation} (here : currentOp s = some op) (more : s.byteIdx < op.length)
    (d : Dir) : ¬finished d s = true := by
  rw [finished_of_currentOp here, decide_eq_false (Nat.not_le.2 more), Bool.and_false]
  exact Bool.false_ne_true

theorem not_finished_write {s : State} (noWrite : ∀ bs, currentOp s ≠ some (.write bs)) :
    ¬finished .write s = true := by
  rw [finished_iff]
  rintro ⟨op, here, write, -⟩
  cases op with
  | write bs => exact noWrite bs here
  | read n => cases write

theorem not_finished_read {s : State} (noRead : ∀ n, currentOp s ≠ some (.read n)) : ¬finished .read s = true := by
  rw [finished_iff]
  rintro ⟨op, here, read, -⟩
  cases op with
  | read n => exact noRead n here
  | write bs => cases read

theorem not_lastByteNext {s : State} {n : Nat} (here : currentOp s = some (.read n)) (other : s.byteIdx + 1 ≠ n) :
    ¬lastByteNext s = true := by
  rw [lastByteNext_iff, here]
  rintro ⟨rfl⟩
  exact other rfl

/-! ## The entry of a data phase -/

/-- A point at the head of a procedure that is also its entry is run from there and from outside alike. -/
theorem nextStepOf_head {p : Point} {points : List Point} {s : State} (outside : s.ctl ∉ points) :
    nextStepOf (p :: points) (exec (pointInstr p) s) s = exec (pointInstr p) s := by
  by_cases here : s.ctl = p
  · rw [nextStepOf_own (here ▸ .head _), here]
  · exact nextStepOf_outside (List.not_mem_cons_of_ne_of_not_mem here outside) _

section
variable {s : State}

theorem writeBytes_finished (outside : s.ctl ∉ sendPoints) (done : finished .write s = true) :
    exec .writeBytes s = dispatch s :=
  (nextStepOf_outside outside _).trans (if_pos done)

theorem writeBytes_more (outside : s.ctl ∉ sendPoints) (more : ¬finished .write s = true) :
    exec .writeBytes s = exec .ctlTxePoll s :=
  (nextStepOf_outside outside _).trans (if_neg more)

theorem readBytes_finished (outside : s.ctl ∉ recvPoints) (done : finished .read s = true) :
    exec .readBytes s = dispatch s :=
  (nextStepOf_outside outside _).trans (if_pos done)

theorem readBytes_more (outside : s.ctl ∉ recvPoints) (more : ¬finished .read s = true) :
    exec .readBytes s = exec .ctlRxPoll s :=
  (nextStepOf_outside outside _).trans (if_neg more)

/-- After the bytes of a final Write comes GEN_STOP, which is also one of the procedure's points (R190). -/
theorem writeWoPrepare_finished (outside : s.ctl ∉ sendPoints) (done : finished .write s = true) :
    exec .writeWoPrepare s = exec .ctlGenStop s :=
  (congrArg (nextStepOf _ · s) (if_pos done)).trans (nextStepOf_head (p := .genStop) outside)

theorem writeWoPrepare_more (outside : s.ctl ∉ sendPoints) (away : s.ctl ≠ .genStop)
    (more : ¬finished .write s = true) : exec .writeWoPrepare s = exec .ctlTxePoll s :=
  (nextStepOf_outside (List.not_mem_cons_of_ne_of_not_mem away outside) _).trans (if_neg more)

theorem readWoPrepare_empty (empty : currentOp s = some (.read 0)) :
    exec .readWoPrepare s = exec .resErrOverrun s :=
  if_pos empty

/-- Before the last byte of a final Read comes ARM_LAST, which is also one of the procedure's points (R191). -/
theorem readWoPrepare_lastByte (outside : s.ctl ∉ recvPoints) (last : lastByteNext s = true) :
    exec .readWoPrepare s = exec .ctlArmLast s := by
  have notEmpty : currentOp s ≠ some (.read 0) := by simp [lastByteNext_iff.1 last]
  exact (if_neg notEmpty).trans
    ((congrArg (nextStepOf _ · s) (if_pos last)).trans (nextStepOf_head (p := .armLast) outside))

/-- With neither an empty Read nor a last byte, READ_WO_PREPARE from outside asks whether the Read is done (R191). -/
theorem readWoPrepare_entry (notEmpty : currentOp s ≠ some (.read 0)) (outside : s.ctl ∉ recvPoints)
    (away : s.ctl ≠ .armLast) (plain : ¬lastByteNext s = true) :
    exec .readWoPrepare s = if finished .read s then exec .resOk s else exec .ctlRxPoll s :=
  (if_neg notEmpty).trans
    ((nextStepOf_outside (List.not_mem_cons_of_ne_of_not_mem away outside) _).trans (if_neg plain))

/-! ## By the current operation -/

theorem dataPhases_write {bs : List Byte} (here : currentOp s = some (.write bs)) (outside : s.ctl ∉ sendPoints) :
    (s.byteIdx < bs.length → exec .writeBytes s = exec .ctlTxePoll s ∧
      (s.ctl ≠ .genStop → exec .writeWoPrepare s = exec .ctlTxePoll s)) ∧
    (bs.length ≤ s.byteIdx → exec .writeBytes s = dispatch s ∧ exec .writeWoPrepare s = exec .ctlGenStop s) := by
  refine ⟨fun more => ?_, fun past => ?_⟩
  · have left := not_finished_of_more here more .write
    exact ⟨writeBytes_more outside left, fun away => writeWoPrepare_more outside away left⟩
  · have done : finished .write s = true := finished_iff.2 ⟨_, here, rfl, past⟩
    exact ⟨writeBytes_finished outside done, writeWoPrepare_finished outside done⟩

theorem readBytes_read {n : Nat} (here : currentOp s = some (.read n)) (outside : s.ctl ∉ recvPoints) :
    (s.byteIdx < n → exec .readBytes s = exec .ctlRxPoll s) ∧ (n ≤ s.byteIdx → exec .readBytes s = dispatch s) :=
  ⟨fun more => readBytes_more outside (not_finished_of_more here more .read),
    fun past => readBytes_finished outside (finished_iff.2 ⟨_, here, rfl, past⟩)⟩

theorem readWoPrepare_more {n : Nat} (here : currentOp s = some (.read n)) (outside : s.ctl ∉ recvPoints)
    (away : s.ctl ≠ .armLast) (more : s.byteIdx + 1 < n) : exec .readWoPrepare s = exec .ctlRxPoll s := by
  have notEmpty : currentOp s ≠ some (.read 0) := by
    rw [here]
    rintro ⟨rfl⟩
    exact Nat.not_lt_zero _ more
  rw [readWoPrepare_entry notEmpty outside away (not_lastByteNext here more.ne)]
  exact if_neg (not_finished_of_more here (Nat.lt_of_succ_lt more) .read)

theorem readWoPrepare_finished {n : Nat} (here : currentOp s = some (.read n)) (outside : s.ctl ∉ recvPoints)
    (away : s.ctl ≠ .armLast) (pos : 0 < n) (past : n ≤ s.byteIdx) : exec .readWoPrepare s = exec .resOk s := by
  have notEmpty : currentOp s ≠ some (.read 0) := by
    rw [here]
    rintro ⟨rfl⟩
    exact Nat.lt_irrefl 0 pos
  rw [readWoPrepare_entry notEmpty outside away (not_lastByteNext here (Nat.lt_succ_of_le past).ne')]
  exact if_pos (finished_iff.2 ⟨_, here, rfl, past⟩)

/-- Where there is no Read, READ_WO_PREPARE is its entry point. -/
theorem readWoPrepare_noRead (noRead : ∀ n, currentOp s ≠ some (.read n)) (outside : s.ctl ∉ recvPoints)
    (away : s.ctl ≠ .armLast) : exec .readWoPrepare s = exec .ctlRxPoll s := by
  rw [readWoPrepare_entry (noRead 0) outside away (mt lastByteNext_iff.1 (noRead _))]
  exact if_neg (not_finished_read noRead)

/-! ## Completion at REST -/

theorem writeBytes_completes {op : Operation} (here : currentOp s = some op) (outside : s.ctl ∉ sendPoints) :
    ∃ t, exec .writeBytes s = .next t := by
  by_cases done : finished .write s = true
  · rw [writeBytes_finished outside done]
    exact dispatch_completes here
  · rw [writeBytes_more outside done]
    exact pollPoint_completes .txe here

theorem readBytes_completes {op : Operation} (here : currentOp s = some op) (outside : s.ctl ∉ recvPoints) :
    ∃ t, exec .readBytes s = .next t := by
  by_cases done : finished .read s = true
  · rw [readBytes_finished outside done]
    exact dispatch_completes here
  · rw [readBytes_more outside done]
    exact pollPoint_completes .rx here

theorem writeWoPrepare_completes {op : Operation} (here : currentOp s = some op) (outside : s.ctl ∉ sendPoints)
    (away : s.ctl ≠ .genStop) : ∃ t, exec .writeWoPrepare s = .next t := by
  by_cases done : finished .write s = true
  · exact ⟨_, writeWoPrepare_finished outside done⟩
  · rw [writeWoPrepare_more outside away done]
    exact pollPoint_completes .txe here

theorem readWoPrepare_completes {op : Operation} (here : currentOp s = some op) (outside : s.ctl ∉ recvPoints)
    (away : s.ctl ≠ .armLast) : ∃ t, exec .readWoPrepare s = .next t := by
  by_cases empty : currentOp s = some (.read 0)
  · exact ⟨_, readWoPrepare_empty empty⟩
  by_cases last : lastByteNext s = true
  · exact ⟨_, readWoPrepare_lastByte outside last⟩
  rw [readWoPrepare_entry empty outside away last]
  split
  · exact ⟨_, rfl⟩
  · exact pollPoint_completes .rx here

end

/-- Settles O38: inside its own points a procedure is `nextStepOf_own`; from elsewhere the current operation says how
much of its data phase is left. -/
theorem dataPhasesRunTheirOwnPoints : Obligations.DataPhasesRunTheirOwnPoints := by
  intro s
  refine ⟨fun own => ⟨nextStepOf_own own _, nextStepOf_own (.tail _ own) _⟩,
    fun here => nextStepOf_own (here ▸ .head _) _, fun own => nextStepOf_own own _, fun own notEmpty => ?_,
    fun bs => dataPhases_write, fun n here => ⟨fun outside => (readBytes_read here outside).1,
      fun outside => (readBytes_read here outside).2, fun zero => readWoPrepare_empty (zero ▸ here),
      fun outside next => readWoPrepare_lastByte outside (lastByteNext_iff.2 (next ▸ here)),
      readWoPrepare_more here, readWoPrepare_finished here⟩, fun noWrite outside => ?_, fun noRead outside => ?_,
    fun op here rest => ?_⟩
  · exact execReadWoPrepare_own notEmpty (List.mem_cons.2 own.symm)
  · have left := not_finished_write noWrite
    exact ⟨writeBytes_more outside left, fun away => writeWoPrepare_more outside away left⟩
  · exact ⟨readBytes_more outside (not_finished_read noRead), readWoPrepare_noRead noRead outside⟩
  · have notSend : s.ctl ∉ sendPoints := by rw [rest]; decide
    have notRecv : s.ctl ∉ recvPoints := by rw [rest]; decide
    obtain ⟨t, writeBytes⟩ := writeBytes_completes here notSend
    obtain ⟨u, readBytes⟩ := readBytes_completes here notRecv
    obtain ⟨v, writeWoPrepare⟩ := writeWoPrepare_completes here notSend (by simp [rest])
    obtain ⟨w, readWoPrepare⟩ := readWoPrepare_completes here notRecv (by simp [rest])
    exact ⟨t, u, v, w, writeBytes, readBytes, writeWoPrepare, readWoPrepare⟩

end Sys2Proof.Machine
end

section
/-! The step around the meaning of an instruction (O8), and the start of the bus commands (O13, O14, O15). -/

namespace Sys2Proof.Machine

/-! ## The step -/

/-- Settles O8: by what is fetched. -/
theorem stepRunsTheFetchedInstruction : Obligations.StepRunsTheFetchedInstruction := by
  refine ⟨fun s i ws bs rest spelled => ?_, fun s rest waits => ?_, fun s c rest fails => ?_, fun s away => ?_,
    fun _ => rfl, fun _ => rfl, fun _ => rfl⟩
  · simp only [step_at_rest rest, spelled]
  · simp only [step_at_rest rest, waits, exec, execCtlRest]
  · simp only [step_at_rest rest, fails]
  · rw [step_at_point away, exec_pointInstr]

/-! ## The start of a bus command -/

section
variable {s : State} {a : Byte}

/-- An empty READ is accepted and aborted in one step (R212). -/
theorem exec_read_empty (small : a.toNat < 128) (bound : s.handle = .bound) (rest : s.ctl = .rest) :
    exec (.read a 0) s =
      .next (raise .overrun (beginTxn a .read (latchOps a [.read 0] (accept (.read a 0) .read s)))) := by
  simp only [exec, execRead, if_true, (addrCheck_none_iff a).2 small]
  exact whenAccepted_fits bound rest _

/-- A READ of a buffer that is not empty is the transaction of its one operation (R221). -/
theorem exec_read_pos {n : Nat} (pos : 0 < n) (s : State) :
    exec (.read a n) s = acceptBus (.read a n) .read a [.read n] s :=
  if_neg pos.ne'

/-- An empty TRANSACTION ends in the step that accepts it (R213, R217). -/
theorem exec_transaction_empty (small : a.toNat < 128) (bound : s.handle = .bound) (rest : s.ctl = .rest) :
    exec (.transaction a []) s =
      .next (finishOk (latchOps a [] (accept (.transaction a []) .transaction s))) :=
  acceptBus_fits small bound rest _ _ _

end

/-- Settles O13: the abort appends its result behind the command, and the TRANSACTION waits for the idle bus. -/
theorem emptyReadOverrunsWithNoAccess : Obligations.EmptyReadOverrunsWithNoAccess := by
  intro s a small bound rest
  refine ⟨?_, _, acceptBus_fits small bound rest _ .transaction _, rfl, rfl, rfl⟩
  rw [exec_read_empty small bound rest, List.append_cons]
  rfl

/-- Settles O14: each command is `acceptBus` with its sequence, which is not empty. -/
theorem busCommandsStartTheirTransaction : Obligations.BusCommandsStartTheirTransaction :=
  fun s _ small bound rest =>
    ⟨fun _ pos => (exec_read_pos pos s).trans (acceptBus_fits small bound rest _ _ _),
      fun _ => acceptBus_fits small bound rest _ _ _, fun _ _ => acceptBus_fits small bound rest _ _ _,
      fun _ _ => acceptBus_fits small bound rest _ _ _⟩

/-- Settles O15: behind the command the segment holds the result alone. -/
theorem emptyTransactionSucceedsWithNoAccess : Obligations.EmptyTransactionSucceedsWithNoAccess := by
  intro s a small bound rest
  have segment := segmentOf_append (s.hist ++ [.cmd (.transaction a [])]) [.res .ok] (by simp [isCmd])
  refine ⟨_, exec_transaction_empty small bound rest, ?_, ?_⟩
  · exact (congrArg noBusActivity segment).trans (by rw [segmentOf_cmd]; rfl)
  · rw [List.append_cons]
    rfl

end Sys2Proof.Machine
end

section
/-! Every branch of `dispatch` with `next_op` (O35). -/

namespace Sys2Proof.Machine

section
variable {s : State}

theorem dispatch_final {op : Operation} (here : currentOp s = some op) (last : s.opIdx + 1 = s.ops.length) :
    dispatch s = dispatchOn [op] s := by
  rw [dispatch_of_currentOp here, List.drop_eq_nil_iff.2 last.ge]

theorem dispatch_not_final {op op' : Operation} (here : currentOp s = some op)
    (next : s.ops[s.opIdx + 1]? = some op') :
    dispatch s = dispatchOn (op :: op' :: s.ops.drop (s.opIdx + 1 + 1)) s := by
  have next : currentOp (advanceOp op.dir s) = some op' := next
  have later : s.ops.drop (s.opIdx + 1) = op' :: s.ops.drop (s.opIdx + 1 + 1) := drop_of_currentOp next
  rw [dispatch_of_currentOp here, later]

/-- The current operation is the final one or has a next one. -/
theorem final_or_next {op : Operation} (here : currentOp s = some op) :
    s.opIdx + 1 = s.ops.length ∨ ∃ op', s.ops[s.opIdx + 1]? = some op' := by
  obtain ⟨lt, -⟩ := List.getElem?_eq_some_iff.1 here
  rcases Nat.eq_or_lt_of_le (Nat.succ_le_of_lt lt) with last | more
  · exact .inl last
  · exact .inr ⟨_, List.getElem?_eq_getElem more⟩

/-! ## The operation has bytes left -/

theorem dispatch_write_more {bs : List Byte} (here : currentOp s = some (.write bs)) (more : s.byteIdx < bs.length) :
    dispatch s = .next (goto .txePoll s) := by
  rcases final_or_next here with last | ⟨op', next⟩
  · rw [dispatch_final here last]
    exact if_pos more
  · rw [dispatch_not_final here next, dispatchOn_cons_cons]
    exact if_pos more

theorem dispatch_read_more {n : Nat} (here : currentOp s = some (.read n)) (more : s.byteIdx < n)
    (plain : ¬(s.opIdx + 1 = s.ops.length ∧ s.byteIdx + 1 = n)) : dispatch s = .next (goto .rxPoll s) := by
  rcases final_or_next here with last | ⟨op', next⟩
  · have notLast : s.byteIdx + 1 ≠ n := fun one => plain ⟨last, one⟩
    rw [dispatch_final here last]
    simp only [dispatchOn, if_neg (Nat.ne_zero_of_lt more), if_pos more, if_neg notLast]
  · rw [dispatch_not_final here next, dispatchOn_cons_cons]
    exact if_pos more

/-- Before the last byte of a final Read (R191). -/
theorem dispatch_read_last {n : Nat} (here : currentOp s = some (.read n)) (last : s.opIdx + 1 = s.ops.length)
    (one : s.byteIdx + 1 = n) : dispatch s = .next (goto .armLast s) := by
  have more : s.byteIdx < n := by omega
  rw [dispatch_final here last]
  simp only [dispatchOn, if_neg (Nat.ne_zero_of_lt more), if_pos more, if_pos one]

/-! ## The operation has none left -/

theorem dispatch_write_past {bs : List Byte} (here : currentOp s = some (.write bs))
    (last : s.opIdx + 1 = s.ops.length) (past : bs.length ≤ s.byteIdx) : dispatch s = .next (goto .genStop s) := by
  rw [dispatch_final here last]
  exact if_neg (Nat.not_lt.2 past)

theorem dispatch_read_empty (here : currentOp s = some (.read 0)) (last : s.opIdx + 1 = s.ops.length) :
    dispatch s = .next (raise .overrun s) := by
  rw [dispatch_final here last]
  rfl

theorem dispatch_next_op {op op' : Operation} (here : currentOp s = some op) (past : op.length ≤ s.byteIdx)
    (next : s.ops[s.opIdx + 1]? = some op') :
    dispatch s =
      if op'.dir = op.dir then dispatch (advanceOp op.dir s) else .next (turnBus op'.dir (advanceOp op.dir s)) := by
  have ahead : dispatch (advanceOp op.dir s) = dispatchOn (op' :: s.ops.drop (s.opIdx + 1 + 1)) (advanceOp op.dir s) :=
    dispatch_of_currentOp next
  rw [dispatch_not_final here next, dispatchOn_cons_cons, if_neg (Nat.not_lt.2 past), ahead]

end

/-- Settles O35: by the current operation, its bytes left and its place in the sequence. -/
theorem dispatchChoosesByPosition : Obligations.DispatchChoosesByPosition := by
  intro s op here
  refine ⟨?_, ?_, ?_, ?_, ?_, ?_, fun op' past next => ⟨fun other => ?_, fun same => ?_⟩⟩
  · rintro bs rfl
    exact dispatch_write_more here
  · rintro bs rfl past last
    exact dispatch_write_past here last past
  · rintro rfl
    exact dispatch_read_empty here
  · rintro n rfl
    exact dispatch_read_more here
  · rintro n rfl
    exact dispatch_read_last here
  · rintro n rfl pos past last
    exact dispatch_readComplete ⟨n, here, pos, past, beq_iff_eq.2 last⟩
  · exact (dispatch_next_op here past next).trans (if_neg other)
  · exact (dispatch_next_op here past next).trans (if_pos same)

end Sys2Proof.Machine
end

section
/-! What accepting a command, receiving an operand word and delivering a result leave unchanged (O43). -/

namespace Sys2Proof.Machine

/-- `t` has the controller, the buffers, the monitor's registers, the environment and the free values of `s`. -/
def Untouched (s t : State) : Prop :=
  t.regs = s.regs ∧ (∀ a, memRead t.mem a = memRead s.mem a) ∧ t.rdata = s.rdata ∧ t.snap = s.snap ∧
    t.pendFlag = s.pendFlag ∧ t.params = s.params ∧ t.env = s.env ∧ t.tick = s.tick

theorem Untouched.refl (s : State) : Untouched s s := ⟨rfl, fun _ => rfl, rfl, rfl, rfl, rfl, rfl, rfl⟩

/-- Acceptance is silent (R210). -/
theorem AcceptCase.untouched {s u : State} {i : Instr} (accepted : AcceptCase s i u) : Untouched s u := by
  cases accepted <;> exact Untouched.refl s

theorem AcceptCase.streams {s u : State} {i : Instr} (accepted : AcceptCase s i u) :
    u.wdata = s.wdata ∧ u.cmdIn = s.cmdIn := by
  cases accepted <;> exact ⟨rfl, rfl⟩

/-- Only NEW writes `cfg` (R240), and of the commands only RELEASE changes the handle at once (R243). -/
theorem AcceptCase.owner {s u : State} {i : Instr} (accepted : AcceptCase s i u) :
    (i ≠ .release → u.handle = s.handle) ∧ ((∀ m clk al, i ≠ .new m clk al) → u.cfg = s.cfg) := by
  refine ⟨fun notRelease => ?_, fun notNew => ?_⟩
  · rcases accepted.handle with same | ⟨release, -⟩
    · exact same
    · exact absurd release notRelease
  · cases accepted with
    | new => exact absurd rfl (notNew _ _ _)
    | release | emptyRead | emptyTransaction | bus => rfl

/-- A result byte executes as the delivery of its result (R99, R217, R258). -/
theorem exec_result {i : Instr} {s t : State} (result : i.format = .r8) (run : exec i s = .next t) :
    t = finishOk s ∨ ∃ e, t = raise e s := by
  cases i with
  | resOk => cases run; exact .inl rfl
  | resErrBus => cases run
  | resErrOverrun | resErrNoackAddress | resErrNoackData | resErrNoackUnknown | resErrTimeout | resErrCrc
  | resErrArbitrationLoss => cases run; exact .inr ⟨_, rfl⟩
  | _ => cases result

/-- Delivering a result touches the history, RESULT, `ctl` and `txn.done` only. -/
theorem delivered_frame {s t : State} (delivered : t = finishOk s ∨ ∃ e, t = raise e s) :
    Untouched s t ∧ (t.wdata = s.wdata ∧ t.cmdIn = s.cmdIn) ∧ t.handle = s.handle ∧ t.cfg = s.cfg ∧ t.cmd = s.cmd ∧
      t.ops = s.ops := by
  rcases delivered with rfl | ⟨e, rfl⟩ <;> exact ⟨Untouched.refl s, ⟨rfl, rfl⟩, rfl, rfl, rfl, rfl⟩

/-- A result byte is no word of the command stream. -/
theorem encodeWords_result {i : Instr} (result : i.format = .r8) : encodeWords i = [] := by
  cases i with
  | resOk | resErrBus | resErrOverrun | resErrNoackAddress | resErrNoackData | resErrNoackUnknown | resErrTimeout
  | resErrCrc | resErrArbitrationLoss => rfl
  | _ => cases result

/-- What is neither a command nor a result byte, a control point, a micro-operation or an address byte is an operand
word. -/
theorem operandWord_of_format {i : Instr} (noCommand : i.format ≠ .h) (noResult : i.format ≠ .r8)
    (noPoint : i.format ≠ .ctl) (noUop : i.format ≠ .uop) (noAddress : i.format ≠ .w8) : ∃ w, OperandWord i w := by
  cases i with
  | modeWord k d al => exact ⟨_, .mode k d al⟩
  | countWord w => exact ⟨_, .count w⟩
  | opWrite len => exact ⟨_, .write len⟩
  | opRead len => exact ⟨_, .read len⟩
  | _ => contradiction

theorem OperandWord.encodeWords_eq {i : Instr} {w : Word} (operand : OperandWord i w) : encodeWords i = [w] := by
  cases operand <;> rfl

/-- Receiving a word (R96) changes the stream, and what accepting the command it completes changes. -/
theorem OperandWord.untouched {i : Instr} {w : Word} {s t : State} (operand : OperandWord i w)
    (run : exec i s = .next t) : Untouched s t := by
  rw [operand.exec_eq] at run
  obtain ⟨-, rfl | ⟨c, ws, bs, -, accepted⟩⟩ := receiveWord_next run
  · exact Untouched.refl s
  · have silent := accepted.untouched
    exact silent

/-- Settles O43: a command is accepted, a result is delivered, an operand word is received. -/
theorem commandsTouchNoMemoryAndNoController : Obligations.CommandsTouchNoMemoryAndNoController := by
  intro i s t noPoint noUop noAddress run
  by_cases command : i.format = .h
  · have accepted := (accept_case command run).2
    obtain ⟨regs, mem, rdata, snap, pendFlag, params, env, tick⟩ := accepted.untouched
    exact ⟨regs, mem, rdata, snap, pendFlag, params, env, tick, fun _ => accepted.streams, fun _ => accepted.owner,
      fun result => absurd (command.symm.trans result) nofun, fun _ noCommand => absurd command noCommand⟩
  by_cases result : i.format = .r8
  · obtain ⟨⟨regs, mem, rdata, snap, pendFlag, params, env, tick⟩, streams, same⟩ :=
      delivered_frame (exec_result result run)
    exact ⟨regs, mem, rdata, snap, pendFlag, params, env, tick, fun _ => streams,
      fun isCommand => absurd isCommand command, fun _ => same,
      fun w _ words => absurd ((encodeWords_result result).symm.trans words) nofun⟩
  obtain ⟨w, operand⟩ := operandWord_of_format command result noPoint noUop noAddress
  obtain ⟨regs, mem, rdata, snap, pendFlag, params, env, tick⟩ := operand.untouched run
  rw [operand.exec_eq] at run
  refine ⟨regs, mem, rdata, snap, pendFlag, params, env, tick, fun other => absurd other (not_or.2 ⟨command, result⟩),
    fun isCommand => absurd isCommand command, fun isResult => absurd isResult result, fun w' _ words => ?_⟩
  · cases operand.encodeWords_eq.symm.trans words
    obtain ⟨rest, -⟩ := receiveWord_next run
    refine ⟨fun waits => ?_, fun c ws bs spelled => ?_⟩
    · cases (receiveWord_incomplete rest waits).symm.trans run
      rfl
    · rw [receiveWord_done rest spelled] at run
      have accepted := (accept_case (decodeCommand_format spelled) run).2
      obtain ⟨wdata, cmdIn⟩ := accepted.streams
      exact ⟨cmdIn, wdata, accepted.owner⟩

end Sys2Proof.Machine
end

section
/-! What the segment of a bus command counts, and how the counts grow with the events of a control point (R75, R147). -/

namespace Sys2Proof.Machine

/-! ## Counting a segment -/

/-- What a segment counts. -/
structure Counts where
  starts : Nat
  addresses : List Byte
  acks : Nat
  arms : Nat
  sent : List Byte
  stored : Nat

/-- The counts with further events behind the segment. -/
def Counts.after (c : Counts) (es : List Event) : Counts where
  starts := c.starts + nStart es
  addresses := c.addresses ++ addressBytes es
  acks := c.acks + nAck es
  arms := c.arms + nArm es
  sent := c.sent ++ sentBytes es
  stored := c.stored + (storedBytes es).length

/-- The segment of the command in progress, or of the last one, counts `c`; every byte stored is the byte read from
DATA, and no `BufRd` is left without its write. -/
structure Tally (h : List Event) (c : Counts) : Prop where
  paired : Paired h
  starts : nStart (segmentOf h) = c.starts
  addresses : addressBytes (segmentOf h) = c.addresses
  acks : nAck (segmentOf h) = c.acks
  arms : nArm (segmentOf h) = c.arms
  sent : sentBytes (segmentOf h) = c.sent
  stored : (storedBytes (segmentOf h)).length = c.stored
  read : readBytes (segmentOf h) = storedBytes (segmentOf h)

theorem Paired.append {h es : List Event} (first : Paired h) (second : Paired es) : Paired (h ++ es) := by
  intro k i b last
  rw [List.getLast?_append] at last
  cases found : es.getLast? with
  | none => exact first k i b (by rwa [found] at last)
  | some e => exact second k i b (by rw [found] at last ⊢; exact last)

/-- The events that one control point appends: they open no command, and a byte that is read or taken is stored or sent
at once. -/
structure Coherent (es : List Event) : Prop where
  noCmd : ∀ e ∈ es, isCmd e = false
  paired : Paired es
  read : readBytes es = storedBytes es

theorem Tally.append {h es : List Event} {c : Counts} (tally : Tally h c) (coherent : Coherent es) :
    Tally (h ++ es) (c.after es) := by
  have segment := segmentOf_append h es coherent.noCmd
  obtain ⟨paired, starts, addresses, acks, arms, sent, stored, read⟩ := tally
  refine ⟨paired.append coherent.paired, ?_, ?_, ?_, ?_, ?_, ?_, ?_⟩ <;> rw [segment]
  · rw [nStart_append, starts]; rfl
  · rw [addressBytes_append _ _ paired.segmentOf, addresses]; rfl
  · rw [nAck_append, acks]; rfl
  · rw [nArm_append, arms]; rfl
  · rw [sentBytes_append, sent]; rfl
  · rw [storedBytes_append, List.length_append, stored]; rfl
  · rw [readBytes_append, storedBytes_append, read, coherent.read]

/-- An event that is not counted. -/
def isUncounted : Event → Bool
  | .modCtrl _ | .wrData _ | .rdData _ | .bufRd _ _ _ | .bufWr _ _ _ | .cmd _ => false
  | _ => true

section
variable {h : List Event} {c : Counts}

theorem Tally.uncounted (tally : Tally h c) {e : Event} (uncounted : isUncounted e = true) : Tally (h ++ [e]) c := by
  have coherent : Coherent [e] := by
    constructor <;> cases e <;> simp_all [isUncounted, isCmd, Paired, readBytes, storedBytes]
  have same : c.after [e] = c := by
    cases e <;>
      simp_all [isUncounted, Counts.after, nStart, isStart, addressBytes, nAck, isAck, nArm, isArm, sentBytes,
        storedBytes]
  exact same ▸ tally.append coherent

/-- A write of CTRL is counted by what it assigns (R142 to R145). -/
theorem Tally.control (tally : Tally h c) (a : CtrlAssign) :
    Tally (h ++ [.modCtrl a]) { c with
      starts := c.starts + nStart [.modCtrl a]
      acks := c.acks + nAck [.modCtrl a]
      arms := c.arms + nArm [.modCtrl a] } := by
  simpa [Counts.after, addressBytes, sentBytes, storedBytes] using
    tally.append (es := [.modCtrl a]) ⟨by simp [isCmd], by simp [Paired], rfl⟩

/-- ADDR_WRITE (R164). -/
theorem Tally.address (tally : Tally h c) (b : Byte) :
    Tally (h ++ [.wrData b]) { c with addresses := c.addresses ++ [b] } := by
  simpa [Counts.after, nStart, isStart, addressBytes, nAck, isAck, nArm, isArm, sentBytes, storedBytes] using
    tally.append (es := [.wrData b]) ⟨by simp [isCmd], by simp [Paired], rfl⟩

/-- TX_WRITE (R182): the write of DATA is no address byte. -/
theorem Tally.send (tally : Tally h c) (k i : Nat) (b : Byte) :
    Tally (h ++ [.bufRd k i b, .wrData b]) { c with sent := c.sent ++ [b] } := by
  simpa [Counts.after, nStart, isStart, addressBytes, nAck, isAck, nArm, isArm, sentBytes, storedBytes] using
    tally.append (es := [.bufRd k i b, .wrData b]) ⟨by simp [isCmd], by simp [Paired], rfl⟩

/-- RX_READ (R186). -/
theorem Tally.receive (tally : Tally h c) (k i : Nat) (v : Byte) :
    Tally (h ++ [.rdData v, .bufWr k i v]) { c with stored := c.stored + 1 } := by
  simpa [Counts.after, nStart, isStart, addressBytes, nAck, isAck, nArm, isArm, sentBytes, storedBytes] using
    tally.append (es := [.rdData v, .bufWr k i v]) ⟨by simp [isCmd], by simp [Paired], rfl⟩

end

/-- A `Cmd` opens a segment that counts nothing. -/
theorem tally_command (h : List Event) (i : Instr) : Tally (h ++ [.cmd i]) ⟨0, [], 0, 0, [], 0⟩ := by
  have segment := segmentOf_cmd h i
  refine ⟨fun k j b last => ?_, ?_, ?_, ?_, ?_, ?_, ?_, ?_⟩
  · cases Option.some.inj (List.getLast?_concat.symm.trans last)
  all_goals rw [segment]; rfl

/-! ## The counts that a position in the sequence asks for -/

/-- The marks of the current address phase that are made, and whether the byte at `byte_idx` is taken but not counted
yet. -/
structure Marks where
  ack : Bool
  start : Bool
  address : Bool
  byte : Bool

/-- The marks that are made at a control point. -/
def marksAt (p : Point) : Marks := ⟨ackMade p, startMade p, addressMade p, p == .txcPoll || p == .txcClear⟩

/-- At the start of an address phase. -/
def Marks.none : Marks := ⟨false, false, false, false⟩

/-- After an address phase. -/
def Marks.all : Marks := ⟨true, true, true, false⟩

/-- The counts at the position of `s` in its sequence, with the marks `m` and `arms` ARM_LASTs. -/
def countsAt (m : Marks) (arms : Nat) (s : State) : Counts where
  starts := (begun m.start (phasesHere s)).length
  addresses := (begun m.address (phasesHere s)).map (addrByte s.addr)
  acks := (begun m.ack (phasesHere s)).count .read
  arms := arms
  sent := (s.ops.take s.opIdx).flatMap Operation.wdata ++
    (currentOp s).elim [] fun op => op.wdata.take (s.byteIdx + if m.byte then 1 else 0)
  stored := bytesRead (s.ops.take s.opIdx) + if s.dir = .read then s.byteIdx else 0

/-- The counts of a bus command in progress. -/
def progressCounts (s : State) : Counts := countsAt (marksAt s.ctl) (if armed s then 1 else 0) s

/-- The counts of a bus command that has come to the end of its sequence: ARM_LAST was made for a final Read, which an
empty one does not reach (R191). -/
def wholeCounts (s : State) : Counts where
  starts := (phasesOf s.ops).length
  addresses := (phasesOf s.ops).map (addrByte s.addr)
  acks := (phasesOf s.ops).count .read
  arms := if endsInRead s.ops && !endsInEmptyRead s.ops then 1 else 0
  sent := s.ops.flatMap Operation.wdata
  stored := bytesRead s.ops

theorem taken_eq (s : State) : taken s = s.byteIdx + if (marksAt s.ctl).byte then 1 else 0 := by
  simp [taken, marksAt]

theorem Progress.tally {s : State} (progress : Progress s) (paired : Paired s.hist) :
    Tally s.hist (progressCounts s) := by
  obtain ⟨starts, addresses, acks, arms, sent, stored, read⟩ := progress
  exact ⟨paired, starts, addresses, acks, arms, by rw [sent, taken_eq]; rfl, stored, read⟩

theorem Tally.progress {s : State} (tally : Tally s.hist (progressCounts s)) : Progress s := by
  obtain ⟨-, starts, addresses, acks, arms, sent, stored, read⟩ := tally
  exact ⟨starts, addresses, acks, arms, by rw [sent, taken_eq]; rfl, stored, read⟩

theorem Tally.complete {s : State} (tally : Tally s.hist (wholeCounts s)) (nonempty : endsInEmptyRead s.ops = false) :
    Complete s := by
  obtain ⟨-, starts, addresses, acks, arms, sent, stored, read⟩ := tally
  exact ⟨starts, addresses, acks, by simpa [wholeCounts, nonempty] using arms, sent, stored, read⟩

/-! ## Moving through the sequence -/

section
variable {s : State} {op : Operation}

/-- The current address phase is the last one begun, and has the direction of the current operation. -/
theorem Serves.phases (serves : Serves s op) : ∃ pre, phasesHere s = pre ++ [op.dir] :=
  phasesOf_take_last serves.1

/-- The acknowledge-enable (R142) is the mark of a Read address phase. -/
theorem countsAt_ack (serves : Serves s op) (read : op.dir = .read) (n : Nat) :
    countsAt ⟨true, false, false, false⟩ n s = { countsAt .none n s with acks := (countsAt .none n s).acks + 1 } := by
  obtain ⟨pre, phases⟩ := serves.phases
  simp [countsAt, Marks.none, begun, phases, read]

/-- A Write address phase has none (R141). -/
theorem countsAt_noAck (serves : Serves s op) (write : op.dir = .write) (n : Nat) :
    countsAt ⟨true, false, false, false⟩ n s = countsAt .none n s := by
  obtain ⟨pre, phases⟩ := serves.phases
  simp [countsAt, Marks.none, begun, phases, write]

theorem countsAt_start (serves : Serves s op) (n : Nat) :
    countsAt ⟨true, true, false, false⟩ n s =
      { countsAt ⟨true, false, false, false⟩ n s with
        starts := (countsAt ⟨true, false, false, false⟩ n s).starts + 1 } := by
  obtain ⟨pre, phases⟩ := serves.phases
  simp [countsAt, begun, phases]

theorem countsAt_address (serves : Serves s op) (n : Nat) :
    countsAt .all n s =
      { countsAt ⟨true, true, false, false⟩ n s with
        addresses := (countsAt ⟨true, true, false, false⟩ n s).addresses ++ [addrByte s.addr s.dir] } := by
  obtain ⟨pre, phases⟩ := serves.phases
  simp [countsAt, Marks.all, begun, phases, serves.2]

/-- A byte taken from the slice (R182). -/
theorem countsAt_taken {b : Byte} (byte : sliceByte s s.opIdx s.byteIdx = some b) (n : Nat) :
    countsAt ⟨true, true, true, true⟩ n s =
      { countsAt .all n s with sent := (countsAt .all n s).sent ++ [b] } := by
  unfold sliceByte at byte
  split at byte
  · next bs here =>
    have current : currentOp s = some (.write bs) := here
    simp [countsAt, Marks.all, current, Operation.wdata, List.take_add_one, byte]
  · cases byte

/-- A byte that was sent is counted in `byte_idx` (R187). -/
theorem countsAt_sent (serves : Serves s op) (write : op.dir = .write) (n : Nat) :
    countsAt .all n { s with byteIdx := s.byteIdx + 1 } = countsAt ⟨true, true, true, true⟩ n s := by
  have notRead : s.dir ≠ .read := by rw [serves.2, write]; nofun
  simp [countsAt, Marks.all, notRead, phasesHere, currentOp]

/-- A byte that was stored is counted in `byte_idx` (R187). -/
theorem countsAt_stored (serves : Serves s op) (read : op.dir = .read) (n : Nat) :
    countsAt .all n { s with byteIdx := s.byteIdx + 1 } =
      { countsAt .all n s with stored := (countsAt .all n s).stored + 1 } := by
  obtain ⟨current, dir⟩ := serves
  cases op with
  | write bs => cases read
  | read m =>
    have here : s.ops[s.opIdx]? = some (.read m) := current
    simp [countsAt, Marks.all, phasesHere, currentOp, here, dir, Operation.dir, Operation.wdata, Nat.add_assoc]

end

end Sys2Proof.Machine
end

section
/-! The counts of a bus command on its way through the sequence: `next_op` passes over complete operations, and
`dispatch` goes on or ends the command (R214, R215). -/

namespace Sys2Proof.Machine

/-! ## From one operation to the next -/

section
variable {s : State} {op : Operation}

/-- A complete operation gives way to the next one, whose address phase is behind it already or has yet to begin
(R215). -/
theorem countsAt_next {t : State} {op' : Operation} (serves : Serves s op) (past : s.byteIdx = op.length)
    (next : s.ops[s.opIdx + 1]? = some op') (ops : t.ops = s.ops) (opIdx : t.opIdx = s.opIdx + 1)
    (byteIdx : t.byteIdx = 0) (addr : t.addr = s.addr) (n : Nat) :
    countsAt (if op'.dir = op.dir then .all else .none) n t = countsAt .all n s := by
  obtain ⟨current, dir⟩ := serves
  have here : s.ops[s.opIdx]? = some op := current
  have phases : phasesHere t = phasesHere s ++ if op'.dir = op.dir then [] else [op'.dir] := by
    simp only [phasesHere, ops, opIdx]
    exact phasesOf_take_next here next
  have sent : op.wdata.take op.length = op.wdata := take_wdata_of_length_le le_rfl
  have stored := bytesRead_snoc (s.ops.take s.opIdx) op
  by_cases same : op'.dir = op.dir <;>
    simp [countsAt, Marks.all, Marks.none, begun, phases, same, ops, opIdx, byteIdx, addr, sent, stored, dir,
      past, take_succ_of_get here, currentOp, next, here]

theorem getLast?_of_isFinal (current : currentOp s = some op) (last : isFinal s = true) :
    s.ops.getLast? = some op := by
  have len : s.opIdx + 1 = s.ops.length := beq_iff_eq.1 last
  rw [List.getLast?_eq_getElem?, ← len]
  exact current

/-- At the end of the final operation the whole sequence is behind. -/
theorem countsAt_final (serves : Serves s op) (last : isFinal s = true) (past : s.byteIdx = op.length) {n : Nat}
    (arms : n = if endsInRead s.ops && !endsInEmptyRead s.ops then 1 else 0) :
    countsAt .all n s = wholeCounts s := by
  obtain ⟨current, dir⟩ := serves
  have here : s.ops[s.opIdx]? = some op := current
  have len : s.opIdx + 1 = s.ops.length := beq_iff_eq.1 last
  have ops : s.ops.take s.opIdx ++ [op] = s.ops := by
    rw [← take_succ_of_get here, len, List.take_length]
  have phases : phasesHere s = phasesOf s.ops := by rw [phasesHere, len, List.take_length]
  have sent : (s.ops.take s.opIdx).flatMap Operation.wdata ++ op.wdata.take s.byteIdx =
      s.ops.flatMap Operation.wdata := by
    conv_rhs => rw [← ops]
    simp [take_wdata_of_length_le past.ge]
  have stored : bytesRead (s.ops.take s.opIdx) + (if s.dir = .read then s.byteIdx else 0) = bytesRead s.ops := by
    conv_rhs => rw [← ops]
    rw [bytesRead_snoc, dir, past]
  simp [countsAt, wholeCounts, Marks.all, begun, phases, current, sent, stored, arms]

end

theorem Advanced.hist {u v : State} (adv : Advanced u v) : v.hist = u.hist := by rw [adv.eq]

/-- Passing over complete operations changes no count. -/
theorem Advanced.countsAt {u v : State} (adv : Advanced u v) (n : Nat) :
    ∀ op, Serves u op → u.byteIdx ≤ op.length →
      Machine.countsAt .all n v = Machine.countsAt .all n u ∧ ∃ op', Serves v op' ∧ v.byteIdx ≤ op'.length := by
  induction adv with
  | refl u => exact fun op serves within => ⟨rfl, op, serves, within⟩
  | @step u v op op' here past next same more ih =>
    intro o serves within
    cases here.symm.trans serves.1
    have serves' : Serves (advanceOp op.dir u) op' := ⟨next, serves.2.trans same.symm⟩
    obtain ⟨counts, behind⟩ := ih op' serves' (Nat.zero_le _)
    have advance := countsAt_next (t := advanceOp op.dir u) serves (Nat.le_antisymm within past) next rfl rfl rfl rfl n
    rw [if_pos same] at advance
    exact ⟨counts.trans advance, behind⟩

/-- A final Read that is complete after operations were passed over was complete before. -/
theorem Advanced.incomplete {u v : State} (adv : Advanced u v) (incomplete : ¬ReadComplete u) : ¬ReadComplete v := by
  rintro ⟨n, here, pos, past, last⟩
  rcases adv.byteIdx_zero with rfl | zero
  · exact incomplete ⟨n, here, pos, past, last⟩
  · omega

/-! ## `dispatch` -/

/-- A bus command that has come to the end of its sequence: in `Ok`, or in the Overrun of an empty final Read. -/
structure Ended (t : State) : Prop where
  rest : t.ctl = .rest
  outcome : t.result = some (if endsInEmptyRead t.ops then .err .overrun else .ok)
  tally : Tally t.hist (wholeCounts t)

theorem endsInEmptyRead_of_final {s : State} {op : Operation} (current : currentOp s = some op)
    (last : isFinal s = true) : endsInEmptyRead s.ops = (op == .read 0) := by
  rw [endsInEmptyRead, getLast?_of_isFinal current last]
  rfl

theorem endsInRead_of_final {s : State} {op : Operation} (current : currentOp s = some op)
    (last : isFinal s = true) : endsInRead s.ops = (op.dir == .read) := by
  rw [endsInRead, getLast?_of_isFinal current last]
  cases op <;> rfl

/-- The end in `Ok` of a state whose counts are whole (R217). -/
theorem ended_finishOk {u : State} (tally : Tally u.hist (wholeCounts u)) (notEmpty : endsInEmptyRead u.ops = false) :
    Ended (finishOk u) where
  rest := rfl
  outcome := by simp [notEmpty]
  tally := tally.uncounted (e := .res .ok) rfl

/-- The end in the Overrun of an empty final Read (R191). -/
theorem ended_overrun {u : State} (tally : Tally u.hist (wholeCounts u)) (empty : endsInEmptyRead u.ops = true) :
    Ended (raise .overrun u) where
  rest := rfl
  outcome := by simp [empty]
  tally := tally.uncounted (e := .res (.err .overrun)) rfl

/-- At a point where all marks of the address phase are made, and no byte is taken, before ARM_LAST. -/
theorem progressCounts_all {t : State} (marks : marksAt t.ctl = .all) (unarmed : armed t = false) :
    progressCounts t = countsAt .all 0 t := by
  rw [progressCounts, marks, unarmed]
  rfl

theorem progressCounts_idlePoll {t : State} (here : t.ctl = .idlePoll) : progressCounts t = countsAt .none 0 t := by
  rw [progressCounts, armed_away (by rw [here]; decide), here]
  rfl

/-- A repeated START (R215) begins an address phase, no mark of which is made yet. -/
theorem tally_turn {v : State} {op op' : Operation} (serves : Serves v op) (past : v.byteIdx = op.length)
    (next : v.ops[v.opIdx + 1]? = some op') (other : op'.dir ≠ op.dir) (tally : Tally v.hist (countsAt .all 0 v)) :
    Tally v.hist (progressCounts (turnBus op'.dir (advanceOp op.dir v))) := by
  have turned := countsAt_next (t := turnBus op'.dir (advanceOp op.dir v)) serves past next rfl rfl rfl rfl 0
  rw [if_neg other] at turned
  rw [progressCounts_idlePoll rfl, turned]
  exact tally

/-- `dispatch` where the final Read is not just complete goes on in the sequence, or finds its end empty. -/
theorem dispatch_followed {u t : State} {op : Operation} (go : dispatch u = .next t) (incomplete : ¬ReadComplete u)
    (serves : Serves u op) (within : u.byteIdx ≤ op.length) (tally : Tally u.hist (countsAt .all 0 u)) :
    (t.ctl ≠ .rest ∧ Tally t.hist (progressCounts t)) ∨ (Ended t ∧ endsInEmptyRead t.ops = true) := by
  have fits := dispatch_stopFits go incomplete
  obtain ⟨v, op', adv, here, exit⟩ := dispatch_next go
  obtain ⟨counts, o, serves', within'⟩ := adv.countsAt 0 op serves within
  cases here.symm.trans serves'.1
  rw [← counts, ← adv.hist] at tally
  have unarmed : t.ctl ≠ .rest → armed t = false := by
    intro away
    cases fits with
    | running _ same => exact same
    | ended rest => exact absurd rest away
  cases exit with
  | send | stop | arm | receive =>
    refine .inl ⟨nofun, ?_⟩
    rw [progressCounts_all rfl (unarmed nofun)]
    exact tally
  | empty last =>
    have isEmpty : endsInEmptyRead v.ops = true := by rw [endsInEmptyRead_of_final here last]; rfl
    have whole := countsAt_final serves' last (Nat.le_antisymm within' (Nat.zero_le _)) (n := 0) (by simp [isEmpty])
    exact .inr ⟨ended_overrun (whole ▸ tally) isEmpty, isEmpty⟩
  | finish pos past last => exact absurd ⟨_, here, pos, past, last⟩ (adv.incomplete incomplete)
  | turn past next other =>
    exact .inl ⟨nofun, tally_turn serves' (Nat.le_antisymm within' past) next other tally⟩

end Sys2Proof.Machine
end

section
/-! Every step of a bus command follows its sequence (O54). -/

namespace Sys2Proof.Machine

/-- What a step of a bus command has come to: it goes on with the counts of its position, it has come to the end of its
sequence, with STOP requested where no empty Read ends it (R191), or a fault ends it. -/
inductive Followed (s t : State) : Prop
  | running (away : t.ctl ≠ .rest) (tally : Tally t.hist (progressCounts t))
  | ended (ended : Ended t) (stops : stopAfter s = !endsInEmptyRead t.ops)
  | aborted (here : s.ctl ∈ clearPoints) (rest : t.ctl = .rest) (error : t.result ≠ some .ok) (paired : Paired t.hist)

/-! ## Within a procedure -/

/-- The condition step of a wait changes no mark of the address phase. -/
theorem marksAt_testTargets (w : Wait) :
    ∀ p ∈ testTargets w, marksAt p = marksAt (pollPointOf w) ∧ marksAt p = marksAt (clearPointOf w) := by
  cases w <;>
    simp [testTargets, marksAt, ackMade, startMade, addressMade, pollPointOf, clearPointOf, beq_eq_decide]

theorem marksAt_clearPointOf (w : Wait) : marksAt (clearPointOf w) = marksAt (pollPointOf w) := by
  cases w <;> rfl

section
variable {s t : State} {w : Wait}

theorem progressCounts_within (hs : s.ctl ∈ phaseOf w) (ht : t.ctl ∈ phaseOf w) (same : SamePosition s t)
    (addr : t.addr = s.addr) : progressCounts t = countsAt (marksAt t.ctl) (if armed s then 1 else 0) s := by
  simp only [progressCounts, armed_within hs ht same, countsAt, phasesHere, currentOp, same.ops, same.opIdx,
    same.byteIdx, same.dir, addr]

/-- From one point of a procedure to another at the same byte, the counts being those of the marks there. -/
theorem followed_within (hs : s.ctl ∈ phaseOf w) (ht : t.ctl ∈ phaseOf w) (same : SamePosition s t)
    (addr : t.addr = s.addr) (tally : Tally t.hist (countsAt (marksAt t.ctl) (if armed s then 1 else 0) s)) :
    Followed s t := by
  obtain ⟨-, away, -⟩ := phaseOf_inBusCommand w _ ht
  exact .running away (progressCounts_within hs ht same addr ▸ tally)

/-- The same where no mark is made. -/
theorem followed_unmarked (hs : s.ctl ∈ phaseOf w) (ht : t.ctl ∈ phaseOf w) (same : SamePosition s t)
    (addr : t.addr = s.addr) (marks : marksAt t.ctl = marksAt s.ctl) (tally : Tally t.hist (progressCounts s)) :
    Followed s t :=
  followed_within hs ht same addr (marks ▸ tally)

end

/-! ## Through `dispatch` -/

section
variable {s u t : State}

/-- `Ready` (R165): the address phase has made all its marks. -/
theorem Inv.followed_ready (inv : Inv s) (hs : s.ctl ∈ addressPoints) (marks : marksAt s.ctl = .all)
    (go : dispatch u = .next t) (same : SamePosition s u) (addr : u.addr = s.addr)
    (tally : Tally u.hist (progressCounts s)) : Followed s t := by
  obtain ⟨op, serves, place⟩ := inv.place (phaseOf_inBusCommand .addr _ hs).2
  obtain ⟨zero, -⟩ := (placeOk_address hs).1 place
  have start : u.byteIdx = 0 := same.byteIdx.trans zero
  have incomplete : ¬ReadComplete u := by
    rintro ⟨n, -, pos, past, -⟩
    omega
  have counts : progressCounts s = countsAt .all 0 u := by
    rw [progressCounts_all marks (armed_address hs)]
    simp only [countsAt, phasesHere, currentOp, same.ops, same.opIdx, same.byteIdx, same.dir, addr]
  rcases dispatch_followed go incomplete (same.serves serves) (start ▸ Nat.zero_le _) (counts ▸ tally) with
    ⟨away, tally⟩ | ⟨ended, empty⟩
  · exact .running away tally
  · exact .ended ended (by rw [stopAfter_eq_armed (w := .addr) hs, armed_address hs, empty]; rfl)

/-- `byte_done` (R187) after a byte sent. -/
theorem Inv.followed_sent (inv : Inv s) (hs : s.ctl ∈ sendPoints) (marks : marksAt s.ctl = ⟨true, true, true, true⟩)
    (go : Machine.byteDone u = .next t) (same : SamePosition s u) (addr : u.addr = s.addr)
    (tally : Tally u.hist (progressCounts s)) : Followed s t := by
  obtain ⟨op, serves, place⟩ := inv.place (phaseOf_inBusCommand .txc _ hs).2
  obtain ⟨write, more⟩ := (placeOk_send hs).1 place
  have serves' := same.serves serves
  have incomplete : ¬ReadComplete { u with byteIdx := u.byteIdx + 1 } := by
    rintro ⟨n, read, -⟩
    cases serves'.1.symm.trans read
    cases write
  have counts : progressCounts s = countsAt .all 0 { u with byteIdx := u.byteIdx + 1 } := by
    rw [countsAt_sent serves' write, progressCounts, marks, armed_send hs]
    simp only [countsAt, phasesHere, currentOp, same.ops, same.opIdx, same.byteIdx, same.dir, addr]
    rfl
  rcases dispatch_followed go incomplete serves' (same.byteIdx ▸ more : u.byteIdx + 1 ≤ op.length)
    (counts ▸ tally) with ⟨away, tally⟩ | ⟨ended, empty⟩
  · exact .running away tally
  · exact .ended ended (by rw [stopAfter_eq_armed (w := .txc) hs, armed_send hs, empty]; rfl)

/-- The end of the final Read in `Ok`, after its ARM_LAST (R191). -/
theorem ended_readComplete {op : Operation} (complete : ReadComplete u) (serves : Serves u op)
    (within : u.byteIdx ≤ op.length) (tally : Tally u.hist (countsAt .all 1 u)) :
    Ended (finishOk u) ∧ endsInEmptyRead u.ops = false := by
  obtain ⟨n, here, pos, past, last⟩ := complete
  cases here.symm.trans serves.1
  have notEmpty : endsInEmptyRead u.ops = false := by
    rw [endsInEmptyRead_of_final here last]
    simp [pos.ne']
  have endsRead : endsInRead u.ops = true := by rw [endsInRead_of_final here last]; rfl
  have whole := countsAt_final serves last (Nat.le_antisymm within past) (n := 1) (by simp [notEmpty, endsRead])
  exact ⟨ended_finishOk (whole ▸ tally) notEmpty, notEmpty⟩

/-- `byte_done` (R187) after a byte received: after the byte that was awaited behind ARM_LAST the command ends. -/
theorem Inv.followed_received (inv : Inv s) (here : s.ctl = .rxRead)
    (go : Machine.byteDone (Machine.receiveByte s) = .next t) (tally : Tally s.hist (progressCounts s)) :
    Followed s t := by
  have hs : s.ctl ∈ phaseOf .rx := by rw [here]; decide
  obtain ⟨op, serves, place⟩ := inv.place (phaseOf_inBusCommand .rx _ hs).2
  obtain ⟨read, more⟩ := (placeOk_recv hs).1 place
  have current := serves.1
  have stored : Tally (Machine.receiveByte s).hist
      (countsAt .all (if armed s then 1 else 0) { s with byteIdx := s.byteIdx + 1 }) := by
    rw [countsAt_stored serves read]
    have marks : marksAt s.ctl = .all := by rw [here]; rfl
    rw [progressCounts, marks] at tally
    exact tally.receive _ _ _
  cases op with
  | write bs => cases read
  | read n =>
    have complete := armed_iff_readComplete here current more
    cases last : armed s with
    | true =>
      have done := complete.1 last
      cases (dispatch_readComplete done).symm.trans go
      rw [last] at stored
      obtain ⟨ended, notEmpty⟩ := ended_readComplete done serves more stored
      exact .ended ended (by rw [stopAfter_eq_armed hs, last]; exact (congrArg (!·) notEmpty).symm)
    | false =>
      have incomplete := fun done => Bool.false_ne_true (last.symm.trans (complete.2 done))
      rw [last] at stored
      rcases dispatch_followed go incomplete serves more stored with ⟨away, tally⟩ | ⟨ended, empty⟩
      · exact .running away tally
      · exact .ended ended (by rw [stopAfter_eq_armed hs, last, empty]; rfl)

/-! ## The other points -/

/-- IDLE_COND (R141): a Write address phase has no acknowledge-enable to make. -/
theorem Inv.followed_idleCond (inv : Inv s) (here : s.ctl = .idleCond) (tally : Tally s.hist (progressCounts s)) :
    Followed s (Machine.idleCond s) := by
  have hs : s.ctl ∈ phaseOf .idle := by rw [here]; decide
  obtain ⟨op, serves, -⟩ := inv.place (phaseOf_inBusCommand .idle _ hs).2
  have read : Tally (s.hist ++ [.rdStopPending s.regs.stopPending]) (progressCounts s) := tally.uncounted rfl
  have marks : marksAt s.ctl = .none := by rw [here]; rfl
  unfold Machine.idleCond
  split
  · exact followed_unmarked hs (by decide : Point.idlePoll ∈ _) ⟨id, rfl, rfl, rfl, rfl⟩ rfl marks.symm read
  · split
    · exact followed_unmarked hs (by decide : Point.sreqAckEn ∈ _) ⟨id, rfl, rfl, rfl, rfl⟩ rfl marks.symm read
    · next write =>
      have counts := countsAt_noAck serves (serves.2.symm.trans write)
      rw [progressCounts, marks, ← counts] at read
      exact followed_within hs (by decide : Point.sreqStart ∈ _) ⟨id, rfl, rfl, rfl, rfl⟩ rfl read

/-- STARTED_COND (R163). -/
theorem followed_startedCond (here : s.ctl = .startedCond) (tally : Tally s.hist (progressCounts s)) :
    Followed s (startedCond s) := by
  have hs : s.ctl ∈ phaseOf .started := by rw [here]; decide
  have read : Tally (s.hist ++ [.rdSts2 s.regs.sts2]) (progressCounts s) := tally.uncounted rfl
  unfold Machine.startedCond
  split
  · exact followed_unmarked hs (by decide : Point.addrWrite ∈ _) ⟨id, rfl, rfl, rfl, rfl⟩ rfl (by rw [here]; rfl) read
  · exact followed_unmarked hs (by decide : Point.startedPoll ∈ _) ⟨id, rfl, rfl, rfl, rfl⟩ rfl (by rw [here]; rfl) read

/-- SREQ_ACK_EN (R142) stands in a Read address phase. -/
theorem Inv.followed_ackEn (inv : Inv s) (here : s.ctl = .sreqAckEn) (tally : Tally s.hist (progressCounts s)) :
    Followed s (setAck s) := by
  have hs : s.ctl ∈ phaseOf .addr := by rw [here]; decide
  obtain ⟨op, serves, place⟩ := inv.place (phaseOf_inBusCommand .addr _ hs).2
  obtain ⟨-, read⟩ := (placeOk_address hs).1 place
  refine followed_within hs (by decide : Point.sreqStart ∈ _) ⟨id, rfl, rfl, rfl, rfl⟩ rfl ?_
  have marks : marksAt s.ctl = .none := by rw [here]; rfl
  rw [progressCounts, marks] at tally
  rw [show marksAt (setAck s).ctl = ⟨true, false, false, false⟩ from rfl, countsAt_ack serves (read here)]
  exact tally.control _

/-- SREQ_START (R143). -/
theorem Inv.followed_start (inv : Inv s) (here : s.ctl = .sreqStart) (tally : Tally s.hist (progressCounts s)) :
    Followed s (genStart s) := by
  have hs : s.ctl ∈ phaseOf .addr := by rw [here]; decide
  obtain ⟨op, serves, -⟩ := inv.place (phaseOf_inBusCommand .addr _ hs).2
  refine followed_within hs (by decide : Point.sreqPoll ∈ _) ⟨id, rfl, rfl, rfl, rfl⟩ rfl ?_
  have marks : marksAt s.ctl = ⟨true, false, false, false⟩ := by rw [here]; rfl
  rw [progressCounts, marks] at tally
  rw [show marksAt (genStart s).ctl = ⟨true, true, false, false⟩ from rfl, countsAt_start serves]
  exact tally.control _

/-- ADDR_WRITE (R164) writes the byte of the latched address and the current direction. -/
theorem Inv.followed_address (inv : Inv s) (here : s.ctl = .addrWrite) (tally : Tally s.hist (progressCounts s)) :
    Followed s (sendAddress (addrByte s.txn.addr s.dir) s) := by
  have hs : s.ctl ∈ phaseOf .addr := by rw [here]; decide
  have bus := (phaseOf_inBusCommand .addr _ hs).2
  obtain ⟨op, serves, -⟩ := inv.place bus
  refine followed_within hs (by decide : Point.addrPoll ∈ _) ⟨id, rfl, rfl, rfl, rfl⟩ rfl ?_
  have marks : marksAt s.ctl = ⟨true, true, false, false⟩ := by rw [here]; rfl
  rw [progressCounts, marks] at tally
  rw [show marksAt (sendAddress (addrByte s.txn.addr s.dir) s).ctl = .all from rfl, countsAt_address serves,
    ← (inv.bus bus).sameAddr]
  exact tally.address _

/-- TX_WRITE (R182). -/
theorem followed_send {b : Byte} (here : s.ctl = .txWrite) (byte : sliceByte s s.opIdx s.byteIdx = some b)
    (tally : Tally s.hist (progressCounts s)) : Followed s (goto .txcPoll (transmitByte b s)) := by
  have hs : s.ctl ∈ phaseOf .txc := by rw [here]; decide
  refine followed_within hs (by decide : Point.txcPoll ∈ _) ⟨id, rfl, rfl, rfl, rfl⟩ rfl ?_
  have marks : marksAt s.ctl = .all := by rw [here]; rfl
  rw [progressCounts, marks] at tally
  rw [show marksAt (goto .txcPoll (transmitByte b s)).ctl = ⟨true, true, true, true⟩ from rfl, countsAt_taken byte,
    transmitByte_eq]
  exact tally.send _ _ _

/-- ARM_LAST (R144): the byte awaited after it is the last of the final Read. -/
theorem Inv.followed_arm (inv : Inv s) (here : s.ctl = .armLast) (tally : Tally s.hist (progressCounts s)) :
    Followed s (Machine.armLast s) := by
  refine .running nofun ?_
  have fits := inv.stopFits_arm here
  have made : stopAfter s = true := by simp [stopAfter, here, controlWrite]
  have armed' : armed (Machine.armLast s) = true := by
    cases fits with
    | running away same => exact same.trans made
    | ended rest => cases rest
  rw [progressCounts_all (by rw [here]; rfl) (armed_away (by rw [here]; decide))] at tally
  rw [progressCounts, armed']
  exact tally.control { ackEn := some false, stopReq := some true }

/-- GEN_STOP (R145) ends a sequence whose final operation is a Write. -/
theorem Inv.followed_stop (inv : Inv s) (here : s.ctl = .genStop) (tally : Tally s.hist (progressCounts s)) :
    Followed s (genStop s) := by
  obtain ⟨op, serves, place⟩ := inv.place (s := s) (by rw [here]; exact ⟨by decide, by decide⟩)
  obtain ⟨write, past, last⟩ := (placeOk_stop here).1 place
  have notEmpty : endsInEmptyRead s.ops = false := by
    rw [endsInEmptyRead_of_final serves.1 last]
    cases op with
    | write bs => rfl
    | read n => cases write
  have noRead : endsInRead s.ops = false := by rw [endsInRead_of_final serves.1 last, write]; rfl
  have whole : progressCounts s = wholeCounts s := by
    rw [progressCounts_all (by rw [here]; rfl) (armed_away (by rw [here]; decide))]
    exact countsAt_final serves last past (by simp [noRead])
  rw [whole] at tally
  have made : stopAfter s = true := by simp [stopAfter, here, controlWrite]
  exact .ended (ended_finishOk (u := modCtrl { stopReq := some true } s) (tally.control _) notEmpty)
    (by rw [made]; simp [notEmpty, genStop])

end

theorem BusCase.followed {s t : State} (h : BusCase s t) (inv : Inv s) (tally : Tally s.hist (progressCounts s)) :
    Followed s t := by
  cases h with
  | @test w p here clean target =>
    exact followed_unmarked (here ▸ pollPointOf_mem_phaseOf w) (testTargets_mem_phaseOf w p target).1
      ⟨id, rfl, rfl, rfl, rfl⟩ rfl (here ▸ (marksAt_testTargets w p target).1) (tally.uncounted rfl)
  | @hold w _ here =>
    exact followed_unmarked (here ▸ pollPointOf_mem_phaseOf w) (clearPointOf_mem_phaseOf w) ⟨id, rfl, rfl, rfl, rfl⟩ rfl
      (here ▸ marksAt_clearPointOf w) (tally.uncounted rfl)
  | @ignore w p here _ target =>
    exact followed_unmarked (here ▸ clearPointOf_mem_phaseOf w) (testTargets_mem_phaseOf w p target).1
      ⟨id, rfl, rfl, rfl, rfl⟩ rfl (here ▸ (marksAt_testTargets w p target).2) (tally.uncounted rfl)
  | @abort w e here =>
    have delivered := (tally.uncounted (e := .clr s.pendFlag) rfl).uncounted (e := .res (.err e)) rfl
    exact .aborted (here ▸ clearPointOf_mem_clearPoints w) rfl (by simp) delivered.paired
  | readyPoll here _ go | readyClear here _ go | readyAck here go =>
    exact inv.followed_ready (by rw [here]; decide) (by rw [here]; rfl) go ⟨id, rfl, rfl, rfl, rfl⟩ rfl
      (tally.uncounted rfl)
  | sentPoll here _ go | sentClear here _ go =>
    exact inv.followed_sent (by rw [here]; decide) (by rw [here]; rfl) go ⟨id, rfl, rfl, rfl, rfl⟩ rfl
      (tally.uncounted rfl)
  | received here _ go => exact inv.followed_received here go tally
  | idleCond here => exact inv.followed_idleCond here tally
  | ackEn here => exact inv.followed_ackEn here tally
  | start here => exact inv.followed_start here tally
  | startedCond here => exact followed_startedCond here tally
  | address here => exact inv.followed_address here tally
  | send here byte => exact followed_send here byte tally
  | arm here => exact inv.followed_arm here tally
  | stop here => exact inv.followed_stop here tally

/-! ## Every step keeps the segment on its sequence -/

theorem Followed.segmentOk {s t : State} (h : Followed s t) : SegmentOk t := by
  cases h with
  | running away tally => exact ⟨fun _ => tally.progress, fun rest => absurd rest away, tally.paired⟩
  | ended ended =>
    obtain ⟨rest, outcome, tally⟩ := ended
    refine ⟨fun bus => absurd rest bus.1, fun _ _ ok => tally.complete ?_, tally.paired⟩
    cases empty : endsInEmptyRead t.ops with
    | false => rfl
    | true => rw [outcome, empty] at ok; cases ok
  | aborted here rest error paired => exact ⟨fun bus => absurd rest bus.1, fun _ _ ok => absurd ok error, paired⟩

/-- During a NEW nothing is asked of the segment but its pairs. -/
theorem segmentOk_new {u : State} (new : u.ctl ∈ newPoints) (paired : Paired u.hist) : SegmentOk u :=
  ⟨fun bus => absurd new bus.2, fun rest => absurd (rest ▸ new) (by decide), paired⟩

/-- Before the first address phase nothing is counted. -/
theorem countsAt_sequence_start {u : State} {op : Operation} {rest : List Operation} (ops : u.ops = op :: rest)
    (opIdx : u.opIdx = 0) (byteIdx : u.byteIdx = 0) : countsAt .none 0 u = ⟨0, [], 0, 0, [], 0⟩ := by
  simp [countsAt, Marks.none, begun, phasesHere, phasesOf, phasesAfter, currentOp, bytesRead, ops, opIdx, byteIdx]

theorem AcceptCase.segmentOk {s u : State} {i : Instr} (accepted : AcceptCase s i u) : SegmentOk u := by
  have command := tally_command s.hist i
  cases accepted with
  | new =>
    exact segmentOk_new (by simp [newPoints]) command.paired
  | release =>
    exact ⟨fun bus => absurd rfl bus.1, fun _ bus => (by cases bus), (command.uncounted (e := .res .ok) rfl).paired⟩
  | emptyRead =>
    exact ⟨fun bus => absurd rfl bus.1, fun _ _ ok => (by cases ok),
      (command.uncounted (e := .res (.err .overrun)) rfl).paired⟩
  | emptyTransaction =>
    have ended := command.uncounted (e := .res .ok) rfl
    exact ⟨fun bus => absurd rfl bus.1, fun _ _ _ => Tally.complete ended rfl, ended.paired⟩
  | bus =>
    refine ⟨fun _ => Tally.progress ?_, fun rest => (by cases rest), command.paired⟩
    rw [progressCounts_idlePoll rfl, countsAt_sequence_start rfl rfl rfl]
    exact command

/-- The segment holds nothing that a move of the environment changes. -/
theorem SegmentOk.envStep {u : State} (ok : SegmentOk u) : SegmentOk (envStep u) := by
  obtain ⟨progress, complete, paired⟩ := ok
  refine ⟨fun bus => ?_, fun rest bus result => ?_, paired⟩
  · obtain ⟨starts, addresses, acks, arms, sent, stored, read⟩ := progress bus
    exact ⟨starts, addresses, acks, arms, sent, stored, read⟩
  · obtain ⟨starts, addresses, acks, arms, sent, stored, read⟩ := complete rest bus result
    exact ⟨starts, addresses, acks, arms, sent, stored, read⟩

/-- Settles O54: each case of a step, by the events it appends and the position it goes on to. -/
theorem everySegmentFollowsItsSequence : Obligations.EverySegmentFollowsItsSequence := by
  intro s t inv ok hstep
  have paired : Paired s.hist := ok.paired
  obtain ⟨u, rfl, hu⟩ := step_cases hstep
  refine SegmentOk.envStep ?_
  rcases hu with ⟨-, rfl⟩ | ⟨-, i, ws, bs, -, accepted⟩ | ⟨here, rfl⟩ | ⟨here, rfl⟩ | ⟨here, rfl⟩ | ⟨bus, busCase⟩
  · exact ok
  · exact accepted.segmentOk
  · exact segmentOk_new (by simp [newEnable, newPoints]) (paired.append (es := [.collabClockEnable]) (by simp [Paired]))
  · exact segmentOk_new (by simp [newReset, newPoints]) (paired.append (es := [.collabClockReset]) (by simp [Paired]))
  · obtain ⟨cmd, -⟩ := inv.building (by rw [here]; decide)
    refine ⟨fun bus => absurd rfl bus.1, fun _ bus => ?_, ?_⟩
    · simp [newApply, cmd, isBusCmd] at bus
    · exact (paired.append (es := [.wrCfg _]) (by simp [Paired])).append (es := [.res .ok]) (by simp [Paired])
  · exact (busCase.followed inv ((ok.progress bus).tally paired)).segmentOk

end Sys2Proof.Machine
end

section
/-! What memory and `cfg` hold plays no part in a bus command: a step with another memory and another `cfg` is the same
step. -/

namespace Sys2Proof.Machine

/-- `s` with another memory and another `cfg`. -/
def withStore (m : Memory) (c : Cfg) (s : State) : State := { s with mem := m, cfg := c }

section
variable (m : Memory) (c : Cfg)

theorem dispatchOn_withStore (ops : List Operation) :
    ∀ s : State, dispatchOn ops (withStore m c s) = mapNext (withStore m c) (dispatchOn ops s) := by
  induction ops with
  | nil => intro s; rfl
  | cons op later ih =>
    intro s
    cases later with
    | nil =>
      cases op with
      | write bs => simp only [dispatchOn, mapNext_ite]; rfl
      | read n => simp only [dispatchOn, mapNext_ite]; rfl
    | cons op' rest =>
      simp only [dispatchOn_cons_cons, mapNext_ite, ← ih]
      rfl

variable {m c} {s t : State}

theorem dispatch_withStore (go : dispatch s = .next t) : dispatch (withStore m c s) = .next (withStore m c t) :=
  (dispatchOn_withStore m c _ s).trans (congrArg (mapNext (withStore m c)) go)

theorem byteDone_withStore (go : byteDone s = .next t) : byteDone (withStore m c s) = .next (withStore m c t) :=
  dispatch_withStore (s := { s with byteIdx := s.byteIdx + 1 }) go

/-- A step of a bus command writes memory but does not read it (R64). -/
theorem BusCase.withStore (m : Memory) (c : Cfg) (h : BusCase s t) :
    ∃ m', BusCase (Machine.withStore m c s) (Machine.withStore m' c t) := by
  cases h with
  | test here clean target ack => exact ⟨m, .test here clean target ack⟩
  | hold here seen => exact ⟨m, .hold here seen⟩
  | ignore here flag target ack => exact ⟨m, .ignore here flag target ack⟩
  | abort here err => exact ⟨m, .abort here err⟩
  | readyPoll here clean go => exact ⟨m, .readyPoll here clean (dispatch_withStore go)⟩
  | readyClear here flag go => exact ⟨m, .readyClear here flag (dispatch_withStore go)⟩
  | readyAck here go => exact ⟨m, .readyAck here (dispatch_withStore go)⟩
  | sentPoll here clean go => exact ⟨m, .sentPoll here clean (byteDone_withStore go)⟩
  | sentClear here flag go => exact ⟨m, .sentClear here flag (byteDone_withStore go)⟩
  | received here room go =>
    exact ⟨memWrite m (bufAddr s.call s.opIdx s.byteIdx) s.regs.rxData, .received here room (byteDone_withStore go)⟩
  | idleCond here => exact ⟨m, .idleCond here⟩
  | ackEn here => exact ⟨m, .ackEn here⟩
  | start here => exact ⟨m, .start here⟩
  | startedCond here => exact ⟨m, .startedCond here⟩
  | address here => exact ⟨m, .address here⟩
  | send here byte => exact ⟨m, .send here byte⟩
  | arm here => exact ⟨m, .arm here⟩
  | stop here => exact ⟨m, .stop here⟩

end

end Sys2Proof.Machine
end

section
/-! A transaction whose every wait is answered at its first poll (O57): how many control points are ahead at each point
of the sequence, and that a step leaves one less. -/

namespace Sys2Proof.Machine

/-! ## The control points ahead -/

/-- The control points of one byte of a data phase (R180, R184). -/
def bytePoints : Dir → Nat
  | .write => 3
  | .read => 2

/-- The control points ahead where `dispatch` is called with these operations from the current one on, `i` bytes of
which are transferred: GEN_STOP follows a final Write, and ARM_LAST comes before the last byte of a final Read (R190,
R191). -/
def pointsAhead : List Operation → Nat → Nat
  | [], _ => 0
  | [.write bs], i => 3 * (bs.length - i) + 1
  | [.read n], i => if i < n then 2 * (n - i) + 1 else 0
  | op :: op' :: rest, i =>
    bytePoints op.dir * (op.length - i) + (if op'.dir = op.dir then 0 else phasePoints op'.dir) +
      pointsAhead (op' :: rest) 0

/-- The control points ahead of `dispatch` in the state `s`. -/
def aheadAt (s : State) : Nat := pointsAhead (s.ops.drop s.opIdx) s.byteIdx

/-- The control point after `p` where the answer of the environment lets the procedure go on and no `dispatch` follows
(R141 to R145, R162 to R164, R181 to R185). -/
def promptNext : Point → Dir → Option Point
  | .idlePoll, _ => some .idleCond
  | .idleCond, .read => some .sreqAckEn
  | .idleCond, .write => some .sreqStart
  | .sreqAckEn, _ => some .sreqStart
  | .sreqStart, _ => some .sreqPoll
  | .sreqPoll, _ => some .startedPoll
  | .startedPoll, _ => some .startedCond
  | .startedCond, _ => some .addrWrite
  | .addrWrite, _ => some .addrPoll
  | .txePoll, _ => some .txWrite
  | .txWrite, _ => some .txcPoll
  | .armLast, _ => some .rxPoll
  | .rxPoll, _ => some .rxRead
  | _, _ => none

/-- The control points from `p` to the `dispatch` at the end of its procedure, or to the end of the command. -/
def pointsLeft : Point → Dir → Nat
  | .idlePoll, d => phasePoints d
  | .idleCond, d => phasePoints d - 1
  | .sreqAckEn, _ => 7
  | .sreqStart, _ => 6
  | .sreqPoll, _ => 5
  | .startedPoll, _ => 4
  | .startedCond, _ => 3
  | .addrWrite, _ => 2
  | .txePoll, _ | .armLast, _ => 3
  | .txWrite, _ | .rxPoll, _ => 2
  | .addrPoll, _ | .txcPoll, _ | .rxRead, _ | .genStop, _ => 1
  | _, _ => 0

/-- The control points ahead once the procedure in progress is done: a byte is transferred then, an address phase or the
whole sequence is behind. -/
def aheadAfter (s : State) : Nat :=
  if s.ctl = .genStop then 0
  else if s.ctl ∈ addressPoints then aheadAt s
  else aheadAt { s with byteIdx := s.byteIdx + 1 }

/-- The control points to the end of the command. -/
def pointsToEnd (s : State) : Nat := pointsLeft s.ctl s.dir + aheadAfter s

/-- The control points of a bus command that meets no fault, without the extra status read. -/
def promptPath : List Point :=
  [.idlePoll, .idleCond, .sreqAckEn, .sreqStart, .sreqPoll, .startedPoll, .startedCond, .addrWrite, .addrPoll, .txePoll,
    .txWrite, .txcPoll, .rxPoll, .rxRead, .armLast, .genStop]

theorem promptPath_facts : ∀ p ∈ promptPath, inBusCommand p ∧ p ∉ clearPoints := by
  unfold inBusCommand
  decide

theorem pointsAhead_cons_cons (op op' : Operation) (rest : List Operation) (i : Nat) :
    pointsAhead (op :: op' :: rest) i =
      bytePoints op.dir * (op.length - i) + (if op'.dir = op.dir then 0 else phasePoints op'.dir) +
        pointsAhead (op' :: rest) 0 := by
  cases op <;> rfl

/-- A whole sequence is its first address phase and what is ahead then. -/
theorem promptPoints_eq (rest : List Operation) :
    ∀ op, promptPoints (op :: rest) = phasePoints op.dir + pointsAhead (op :: rest) 0 := by
  induction rest with
  | nil =>
    intro op
    cases op with
    | write bs => simp [promptPoints, phasesOf, phasesAfter, dataPoints, endsInEmptyRead, pointsAhead]; omega
    | read n =>
      by_cases zero : n = 0
      · simp [promptPoints, phasesOf, phasesAfter, dataPoints, endsInEmptyRead, pointsAhead, zero]
      · simp [promptPoints, phasesOf, phasesAfter, dataPoints, endsInEmptyRead, pointsAhead, zero, Nat.pos_of_ne_zero]
        omega
  | cons op' rest ih =>
    intro op
    have data : dataPoints op = bytePoints op.dir * op.length := by cases op <;> rfl
    have empty : endsInEmptyRead (op :: op' :: rest) = endsInEmptyRead (op' :: rest) := by
      simp only [endsInEmptyRead, List.getLast?_cons_cons]
    have later := ih op'
    rw [pointsAhead_cons_cons, Nat.sub_zero, ← data]
    simp only [promptPoints, phasesOf, phasesAfter, empty, List.map_cons, List.sum_cons] at later ⊢
    split
    · next same => rw [same] at later ⊢; omega
    · simp only [List.map_cons, List.sum_cons]; omega

/-! ## Through `dispatch` -/

section
variable {s u t : State} {op : Operation}

theorem aheadAt_of_currentOp (here : currentOp s = some op) :
    aheadAt s = pointsAhead (op :: s.ops.drop (s.opIdx + 1)) s.byteIdx := by
  rw [aheadAt, drop_of_currentOp here]

theorem aheadAt_final (here : currentOp s = some op) (last : isFinal s = true) :
    aheadAt s = pointsAhead [op] s.byteIdx := by
  rw [aheadAt_of_currentOp here, (isFinal_iff_drop here).1 last]

/-- One byte more of an operation, the last one of a final Read excepted. -/
theorem aheadAt_more (here : currentOp s = some op) (more : s.byteIdx < op.length)
    (plain : op.dir = .read → ¬(isFinal s = true ∧ s.byteIdx + 1 = op.length)) :
    bytePoints op.dir + aheadAt { s with byteIdx := s.byteIdx + 1 } = aheadAt s := by
  have here' : currentOp { s with byteIdx := s.byteIdx + 1 } = some op := here
  rw [aheadAt_of_currentOp here, aheadAt_of_currentOp here']
  cases later : s.ops.drop (s.opIdx + 1) with
  | nil =>
    have last := (isFinal_iff_drop here).2 later
    cases op with
    | write bs =>
      have more : s.byteIdx < bs.length := more
      simp only [pointsAhead, bytePoints, Operation.dir]
      omega
    | read n =>
      have more : s.byteIdx < n := more
      have notLast : s.byteIdx + 1 ≠ n := fun one => plain rfl ⟨last, one⟩
      have more' : s.byteIdx + 1 < n := by omega
      simp only [pointsAhead, bytePoints, Operation.dir, if_pos more, if_pos more']
      omega
  | cons op' rest =>
    have left : op.length - s.byteIdx = op.length - (s.byteIdx + 1) + 1 := by omega
    rw [pointsAhead_cons_cons, pointsAhead_cons_cons, left, Nat.mul_succ]
    dsimp only
    omega

/-- A complete operation gives way to the next one, with an address phase where the direction changes (R215). -/
theorem aheadAt_past {op' : Operation} (here : currentOp s = some op) (past : op.length ≤ s.byteIdx)
    (next : s.ops[s.opIdx + 1]? = some op') :
    aheadAt s = (if op'.dir = op.dir then 0 else phasePoints op'.dir) + aheadAt (advanceOp op.dir s) := by
  have next : currentOp (advanceOp op.dir s) = some op' := next
  have later : s.ops.drop (s.opIdx + 1) = op' :: s.ops.drop (s.opIdx + 1 + 1) := drop_of_currentOp next
  rw [aheadAt_of_currentOp here, aheadAt_of_currentOp next, later, pointsAhead_cons_cons, Nat.sub_eq_zero_of_le past]
  simp

theorem Advanced.aheadAt (adv : Advanced s u) : aheadAt s = aheadAt u := by
  induction adv with
  | refl s => rfl
  | step here past next same more ih =>
    rw [aheadAt_past here past next, if_pos same, Nat.zero_add, ih]

/-- `dispatch` makes no access, and goes on as far as there are control points ahead. -/
theorem dispatch_pointsToEnd (go : dispatch u = .next t) :
    (t.ctl ∈ promptPath ∧ pointsToEnd t = aheadAt u) ∨ (t.ctl = .rest ∧ aheadAt u = 0) := by
  obtain ⟨v, op, adv, here, exit⟩ := dispatch_next go
  rw [adv.aheadAt]
  cases exit with
  | send more => exact .inl ⟨by simp [promptPath], aheadAt_more here more nofun⟩
  | receive more plain => exact .inl ⟨by simp [promptPath], aheadAt_more here more fun _ => plain⟩
  | @stop bs past last =>
    refine .inl ⟨by simp [promptPath], ?_⟩
    rw [aheadAt_final here last, pointsAhead, Nat.sub_eq_zero_of_le past]
    rfl
  | empty last =>
    refine .inr ⟨rfl, ?_⟩
    rw [aheadAt_final here last]
    rfl
  | @arm n one last =>
    have done : aheadAt { v with byteIdx := v.byteIdx + 1 } = 0 := by
      rw [aheadAt_final (s := { v with byteIdx := v.byteIdx + 1 }) here last]
      exact if_neg (Nat.not_lt.2 one.ge)
    have ahead : aheadAt v = 3 := by
      rw [aheadAt_final here last, pointsAhead, if_pos (by omega)]
      omega
    exact .inl ⟨by simp [promptPath], (congrArg (3 + ·) done).trans ahead.symm⟩
  | finish pos past last =>
    refine .inr ⟨rfl, ?_⟩
    rw [aheadAt_final here last]
    exact if_neg (Nat.not_lt.2 past)
  | turn past next other =>
    refine .inl ⟨by simp [promptPath], ?_⟩
    rw [aheadAt_past here past next, if_neg other]
    rfl

end

end Sys2Proof.Machine
end

section
/-! With prompt answers every step leaves one control point less ahead, and the command ends at the end of its sequence
(O57). -/

namespace Sys2Proof.Machine

/-- A `cfg` with a frequency above 0. -/
def soundCfg : Cfg := ⟨.standard 1, 0, false⟩

/-- A bus command that has met no fault, without the extra status read. The invariant is asked of everything but memory
and `cfg`, which play no part. -/
structure OnCourse (s : State) : Prop where
  inv : Inv (withStore [] soundCfg s)
  path : s.ctl ∈ promptPath
  param : s.params.addrAckClearRead = false
  tally : Tally s.hist (progressCounts s)
  stop : StopMade (armed s) s.hist

theorem Inv.forgetStore {m : Memory} {c : Cfg} {s : State} (inv : Inv (withStore m c s)) : Inv (withStore [] c s) where
  memory := List.Pairwise.nil
  named := inv.named
  ackParam := inv.ackParam
  observed := inv.observed
  building := inv.building
  bus hb := by
    obtain ⟨command, bound, noResult, notDone, sameAddr, addr7, place⟩ := inv.bus hb
    exact ⟨command, bound, noResult, notDone, sameAddr, addr7, place⟩
  frequency := inv.frequency
  noBusError := inv.noBusError

/-- A transaction that has come to the end of its sequence, with STOP requested where no empty Read ends it (R147). -/
structure Arrived (t : State) : Prop where
  ended : Ended t
  stop : StopMade (!endsInEmptyRead t.ops) t.hist

theorem OnCourse.bus {s : State} (on : OnCourse s) : inBusCommand s.ctl := (promptPath_facts _ on.path).1

theorem OnCourse.place {s : State} (on : OnCourse s) : ∃ op, Serves s op ∧ PlaceOk s op := by
  have place := on.inv.place on.bus
  exact place

/-- A step on course that meets no fault stays on course or arrives. -/
theorem OnCourse.after {s u : State} (on : OnCourse s) (h : BusCase s u) (path : u.ctl ∈ promptPath ∨ u.ctl = .rest) :
    OnCourse u ∨ Arrived u := by
  have stop := h.stopMade on.stop
  obtain ⟨m, h'⟩ := h.withStore [] soundCfg
  have inv := (h'.inv on.inv on.bus).forgetStore
  have fits := h'.stopFits on.inv
  have noClear := (promptPath_facts _ on.path).2
  cases h'.followed on.inv on.tally with
  | running away tally =>
    have path : u.ctl ∈ promptPath := path.resolve_right away
    refine .inl ⟨inv, path, ?_, tally, ?_⟩
    · rw [h.env.2]; exact on.param
    · cases fits with
      | running _ same => exact same ▸ stop
      | ended rest => exact absurd rest away
  | ended ended stops =>
    obtain ⟨rest, outcome, tally⟩ := ended
    exact .inr ⟨⟨rest, outcome, tally⟩, stops ▸ stop⟩
  | aborted here => exact absurd here noClear

/-- The environment's move touches nothing of the course. -/
theorem OnCourse.envStep {u : State} (on : OnCourse u) : OnCourse (envStep u) := by
  obtain ⟨inv, path, param, tally, stop⟩ := on
  exact ⟨inv.envStep, path, param, tally, stop⟩

theorem Arrived.envStep {u : State} (arrived : Arrived u) : Arrived (envStep u) := by
  obtain ⟨⟨rest, outcome, tally⟩, stop⟩ := arrived
  exact ⟨⟨rest, outcome, tally⟩, stop⟩

/-! ## The step of a prompt answer -/

section
variable {s : State}

/-- A poll that is answered goes on with its condition met. -/
theorem pollPoint_prompt {w : Wait} (here : s.ctl = pollPointOf w) (prompt : AnsweredAtOnce s) :
    pollPoint w s = waitTest w (readStatus s) ∧ awaitedFlag s.regs.sts w = true := by
  obtain ⟨clean, awaited⟩ := prompt.poll w here
  exact ⟨pollPoint_clean w clean, awaited⟩

/-- The condition step of a wait that is answered, where no `dispatch` follows. -/
theorem waitTest_prompt {w : Wait} {d : Dir} {q : Point} (awaited : awaitedFlag s.regs.sts w = true)
    (next : promptNext (pollPointOf w) d = some q) :
    waitTest w (readStatus s) = .next (goto q (readStatus s)) := by
  cases w with
  | idle | started => cases next; rfl
  | sreq | txe | rx => cases next; exact next_goto_exit (flag := awaitedFlag s.regs.sts _) awaited _ _ _
  | addr | txc => cases next

theorem promptNext_facts {p q : Point} {d : Dir} (next : promptNext p d = some q) :
    q ∈ promptPath ∧ pointsLeft q d + 1 = pointsLeft p d ∧ (q ∈ addressPoints ↔ p ∈ addressPoints) ∧ q ≠ .genStop ∧
      p ≠ .genStop := by
  cases p <;> cases d <;> cases next <;> decide

/-- `u` stands at the same byte of the same sequence as `s`. -/
def SameByte (s u : State) : Prop :=
  u.dir = s.dir ∧ u.ops = s.ops ∧ u.opIdx = s.opIdx ∧ u.byteIdx = s.byteIdx

/-- From one point of a procedure to the next at the same byte, one control point is done. -/
theorem pointsToEnd_next {u : State} {q : Point} (next : promptNext s.ctl s.dir = some q) (ctl : u.ctl = q)
    (same : SameByte s u) : u.ctl ∈ promptPath ∧ pointsToEnd u + 1 = pointsToEnd s := by
  subst ctl
  obtain ⟨dir, ops, opIdx, byteIdx⟩ := same
  obtain ⟨path, points, phase, notStop, notStop'⟩ := promptNext_facts next
  have ahead : aheadAfter u = aheadAfter s := by
    simp only [aheadAfter, if_neg notStop, if_neg notStop', phase, aheadAt, ops, opIdx, byteIdx]
  refine ⟨path, ?_⟩
  rw [pointsToEnd, pointsToEnd, ahead, dir, ← points]
  omega

theorem idleCond_prompt {q : Point} (free : s.regs.stopPending = false) (next : promptNext .idleCond s.dir = some q) :
    idleCond s = goto q (readStopPending s) := by
  rw [idleCond, if_neg (ne_true_of_eq_false free)]
  cases dir : s.dir <;> rw [dir] at next <;> cases next <;> rfl

/-- TX_WRITE has its byte (R66, R182). -/
theorem OnCourse.txWrite_next (on : OnCourse s) (here : s.ctl = .txWrite) :
    ∃ b, txWrite s = .next (goto .txcPoll (transmitByte b s)) := by
  obtain ⟨op, ⟨current, -⟩, place⟩ := on.place
  obtain ⟨write, more⟩ := (placeOk_send (by rw [here]; decide)).1 place
  cases op with
  | read n => cases write
  | write bs =>
    have byte := sliceByte_of_write current s.byteIdx
    rw [List.getElem?_eq_getElem more] at byte
    exact ⟨_, txWrite_of_sliceByte byte⟩

/-- With a prompt answer control goes on to the next point of the procedure. -/
theorem OnCourse.next {q : Point} (on : OnCourse s) (prompt : AnsweredAtOnce s)
    (next : promptNext s.ctl s.dir = some q) : ∃ u, runPoint s.ctl s = .next u ∧ u.ctl = q ∧ SameByte s u := by
  have poll {w : Wait} (here : s.ctl = pollPointOf w) : runPoint s.ctl s = .next (goto q (readStatus s)) := by
    obtain ⟨clean, awaited⟩ := pollPoint_prompt here prompt
    rw [here, runPoint_pollPointOf, clean]
    exact waitTest_prompt awaited (here ▸ next)
  have read : SameByte s (goto q (readStatus s)) := ⟨rfl, rfl, rfl, rfl⟩
  cases here : s.ctl with
  | idlePoll => exact ⟨_, here ▸ poll (w := .idle) here, rfl, read⟩
  | sreqPoll => exact ⟨_, here ▸ poll (w := .sreq) here, rfl, read⟩
  | startedPoll => exact ⟨_, here ▸ poll (w := .started) here, rfl, read⟩
  | txePoll => exact ⟨_, here ▸ poll (w := .txe) here, rfl, read⟩
  | rxPoll => exact ⟨_, here ▸ poll (w := .rx) here, rfl, read⟩
  | idleCond =>
    rw [here] at next
    exact ⟨_, congrArg Host.Outcome.next (idleCond_prompt (prompt.idle here) next), rfl, rfl, rfl, rfl, rfl⟩
  | startedCond =>
    rw [here] at next
    cases next
    exact ⟨_, congrArg Host.Outcome.next (startedCond_free (prompt.started here)), rfl, rfl, rfl, rfl, rfl⟩
  | txWrite =>
    rw [here] at next
    cases next
    obtain ⟨b, run⟩ := on.txWrite_next here
    exact ⟨_, run, rfl, rfl, rfl, rfl, rfl⟩
  | sreqAckEn | sreqStart | addrWrite | armLast =>
    rw [here] at next
    cases next
    exact ⟨_, rfl, rfl, rfl, rfl, rfl, rfl⟩
  | _ =>
    rw [here] at next
    cases next

/-- The points at which `dispatch` follows the access, with one control point done. -/
theorem OnCourse.dispatches (on : OnCourse s) (prompt : AnsweredAtOnce s)
    (here : s.ctl ∈ [.addrPoll, .txcPoll, .rxRead]) :
    ∃ u op, runPoint s.ctl s = dispatch u ∧ currentOp u = some op ∧ pointsToEnd s = aheadAt u + 1 := by
  obtain ⟨op, ⟨current, -⟩, place⟩ := on.place
  simp only [List.mem_cons, List.not_mem_nil, or_false] at here
  rcases here with here | here | here
  · obtain ⟨clean, acked⟩ := pollPoint_prompt (w := .addr) here prompt
    refine ⟨readStatus s, op, ?_, current, ?_⟩
    · rw [here, show runPoint .addrPoll s = pollPoint .addr s from rfl, clean]
      exact (if_pos acked).trans (if_neg (ne_true_of_eq_false on.param))
    · rw [pointsToEnd, here, aheadAfter, here, Nat.add_comm]
      rfl
  · obtain ⟨clean, done⟩ := pollPoint_prompt (w := .txc) here prompt
    refine ⟨{ readStatus s with byteIdx := s.byteIdx + 1 }, op, ?_, current, ?_⟩
    · rw [here, show runPoint .txcPoll s = pollPoint .txc s from rfl, clean]
      exact if_pos done
    · rw [pointsToEnd, here, aheadAfter, here, Nat.add_comm]
      rfl
  · obtain ⟨read, more⟩ := (placeOk_recv (by rw [here]; decide)).1 place
    refine ⟨{ receiveByte s with byteIdx := s.byteIdx + 1 }, op, ?_, current, ?_⟩
    · cases op with
      | write bs => cases read
      | read n =>
        rw [here]
        exact rxRead_of_inReadBuffer (inReadBuffer_of_read current more)
    · rw [pointsToEnd, here, aheadAfter, here, Nat.add_comm]
      rfl

theorem promptPath_cases (d : Dir) :
    ∀ p ∈ promptPath,
      (promptNext p d).isSome = true ∨ p ∈ [Point.addrPoll, .txcPoll, .rxRead] ∨ p = .genStop := by
  cases d <;> decide

theorem pointsLeft_pos (d : Dir) : ∀ p ∈ promptPath, 0 < pointsLeft p d := by cases d <;> decide

/-- A step with a prompt answer does one control point of those ahead. -/
theorem OnCourse.run_next (on : OnCourse s) (prompt : AnsweredAtOnce s) :
    ∃ u, runPoint s.ctl s = .next u ∧
      (u.ctl ∈ promptPath ∧ pointsToEnd u + 1 = pointsToEnd s ∨ u.ctl = .rest ∧ pointsToEnd s = 1) := by
  rcases promptPath_cases s.dir _ on.path with next | here | here
  · obtain ⟨q, next⟩ := Option.isSome_iff_exists.1 next
    obtain ⟨u, run, ctl, same⟩ := on.next prompt next
    exact ⟨u, run, .inl (pointsToEnd_next next ctl same)⟩
  · obtain ⟨v, op, run, current, points⟩ := on.dispatches prompt here
    obtain ⟨u, go⟩ := dispatch_completes current
    rw [points]
    refine ⟨u, run.trans go, ?_⟩
    rcases dispatch_pointsToEnd go with ⟨path, ahead⟩ | ⟨rest, none⟩
    · exact .inl ⟨path, by rw [ahead]⟩
    · exact .inr ⟨rest, by rw [none]⟩
  · refine ⟨genStop s, by rw [here]; rfl, .inr ⟨rfl, ?_⟩⟩
    simp [pointsToEnd, pointsLeft, aheadAfter, here]

/-- With a prompt answer a step stays on course, one control point nearer to the end, or arrives. -/
theorem OnCourse.step (on : OnCourse s) (prompt : AnsweredAtOnce s) :
    ∃ t, Machine.step s = .next t ∧ t.ops = s.ops ∧ t.addr = s.addr ∧
      (OnCourse t ∧ pointsToEnd t + 1 = pointsToEnd s ∨ Arrived t ∧ pointsToEnd s = 1) := by
  obtain ⟨u, run, ahead⟩ := on.run_next prompt
  have busCase := bus_case on.bus run
  obtain ⟨-, -, addr, ops, -⟩ := busCase.sameLatch
  refine ⟨Machine.envStep u, ?_, ops, addr, ?_⟩
  · rw [step_at_point on.bus.1, run]
    rfl
  · rcases on.after busCase (ahead.imp And.left And.left) with on' | arrived
    · rcases ahead with ⟨-, points⟩ | ⟨rest, -⟩
      · exact .inl ⟨on'.envStep, points⟩
      · exact absurd rest (promptPath_facts _ on'.path).1.1
    · rcases ahead with ⟨path, -⟩ | ⟨-, points⟩
      · exact absurd arrived.ended.rest (promptPath_facts _ path).1.1
      · exact .inr ⟨arrived.envStep, points⟩

end

/-- Prompt answers through the control points ahead make the command arrive. -/
theorem OnCourse.run {n : Nat} : ∀ {s : State}, OnCourse s → pointsToEnd s = n →
    (∀ k u, k < n → Host.Core.run Sys2Proof.core k s = .next u → AnsweredAtOnce u) →
    ∃ t, Host.Core.run Sys2Proof.core n s = .next t ∧ Arrived t ∧ t.ops = s.ops ∧ t.addr = s.addr := by
  induction n with
  | zero =>
    intro s on points _
    have left := pointsLeft_pos s.dir _ on.path
    rw [pointsToEnd] at points
    omega
  | succ n ih =>
    intro s on points prompt
    obtain ⟨t, go, ops, addr, ⟨on', next⟩ | ⟨arrived, last⟩⟩ := on.step (prompt 0 s (Nat.succ_pos n) rfl)
    · obtain ⟨v, run, arrived, ops', addr'⟩ := ih on' (by omega) fun k u lt run =>
        prompt (k + 1) u (by omega) ((run_succ_of_step go k).trans run)
      exact ⟨v, (run_succ_of_step go n).trans run, arrived, ops'.trans ops, addr'.trans addr⟩
    · obtain rfl : n = 0 := by omega
      exact ⟨t, (run_succ_of_step go 0).trans rfl, arrived, ops, addr⟩

/-! ## The whole transaction -/

theorem phasesAfter_length (l : List Operation) : ∀ d, (phasesAfter d l).length = turnsAfter d l := by
  induction l with
  | nil => intro d; rfl
  | cons op rest ih =>
    intro d
    rw [phasesAfter, turnsAfter, ← ih op.dir]
    split
    · exact (Nat.zero_add _).symm
    · exact Nat.add_comm _ _

/-- The state in which the acceptance of a bus command leaves the block (R213) is on course. -/
theorem onCourse_accepted {s : State} {a : Byte} (bound : s.handle = .bound) (small : a.toNat < 128)
    (param : s.params.addrAckClearRead = false) (op : Operation) (rest : List Operation) :
    OnCourse (startBus a (op :: rest)
      (latchOps a (op :: rest) (accept (.transaction a (op :: rest)) .transaction s))) := by
  have addr7 := (addrCheck_none_iff a).2 small
  have command := tally_command s.hist (.transaction a (op :: rest))
  refine ⟨?_, .head _, param, ?_, stopMade_command _ _⟩
  · exact .ofPlain (p := .idlePoll) rfl (by decide)
      ⟨List.Pairwise.nil, rfl, bound, rfl, rfl, rfl, addr7, Nat.one_pos⟩ ⟨rfl, rfl⟩
      ((placeOk_address (.head _)).2 ⟨rfl, by simp [startBus, withStore]⟩)
  · rw [progressCounts_idlePoll rfl, countsAt_sequence_start rfl rfl rfl]
    exact command

/-- A held TRANSACTION is accepted in one step. -/
theorem step_holds_transaction {s : State} {a : Byte} {ops : List Operation} (small : a.toNat < 128)
    (fits : Fits (.transaction a ops) = true) (holds : Holds (.transaction a ops) s) :
    step s = .next (envStep (startBus a ops
      (latchOps a ops (accept (.transaction a ops) .transaction { s with cmdIn := [], wdata := [] })))) := by
  obtain ⟨rest, bound, words, bytes⟩ := holds
  have wellFormed : WellFormed (.transaction a ops) = true := by
    simp [WellFormed, Instr.failing, (addrCheck_none_iff a).2 small]
  have spelled : decodeCommand s.cmdIn s.wdata = .done (.transaction a ops) [] [] := by
    simpa [words, bytes] using decodeUndoesEncodeOnCommands (.transaction a ops) [] [] rfl (.inl wellFormed) fits
  have run : exec (.transaction a ops) { s with cmdIn := [], wdata := [] } = _ :=
    acceptBus_fits (s := { s with cmdIn := [], wdata := [] }) small bound rest _ .transaction ops
  simp only [step_at_rest rest, spelled, run, settle]

/-- Settles O57: acceptance puts the block on course, and what it counts on arrival is the whole sequence. -/
theorem transactionsCompleteUnderPromptAnswers : Obligations.TransactionsCompleteUnderPromptAnswers := by
  rintro s a op rest ops rfl small fits holds param prompt
  have go := step_holds_transaction small fits holds
  have ⟨_, bound, _⟩ := holds
  have on := (onCourse_accepted (s := { s with cmdIn := [], wdata := [] }) bound small param op rest).envStep
  obtain ⟨t, run, arrived, latched, addr⟩ := on.run (n := promptPoints (op :: rest)) (promptPoints_eq rest op).symm
    fun k u lt run => prompt (k + 1) u lt ((run_succ_of_step go k).trans run)
  obtain ⟨⟨atRest, outcome, tally⟩, stop⟩ := arrived
  have ops : t.ops = op :: rest := latched
  have addr : t.addr = a := addr
  obtain ⟨-, starts, addresses, -, arms, sent, stored, -⟩ := tally
  simp only [wholeCounts, ops, addr] at starts addresses arms sent stored
  refine ⟨t, ?_, atRest, ?_, ?_, ?_, arms, addresses, sent, stored⟩
  · rw [Nat.add_comm]
    exact (run_succ_of_step go _).trans run
  · rw [outcome, ops]
  · rw [starts, phasesOf, List.length_cons, phasesAfter_length, Nat.add_comm]
  · rw [stop.count, ops]
    cases endsInEmptyRead (op :: rest) <;> rfl

end Sys2Proof.Machine
end

section
/-! The life of the block (R240 to R243): NEW with its three points (O11), and RELEASE (O12). -/

namespace Sys2Proof.Machine

section
variable {s : State}

/-- With a frequency above 0 an unbound block at REST accepts NEW (R240). -/
theorem exec_new {m : Mode} (pos : 0 < m.frequency) (unbound : s.handle = .unbound) (rest : s.ctl = .rest)
    (clk : Nat) (al : Bool) :
    exec (.new m clk al) s =
      .next { accept (.new m clk al) .new s with cfg := ⟨m, clk, al⟩, ctl := .newEnable } :=
  (if_neg pos.ne').trans (whenAccepted_fits unbound rest _)

/-- A bound block at REST accepts RELEASE and ends it in the same step (R243). -/
theorem exec_release (bound : s.handle = .bound) (rest : s.ctl = .rest) :
    exec .release s = .next (deliver .ok { accept .release .release s with handle := .unbound }) :=
  whenAccepted_fits bound rest _

end

/-- NEW_APPLY appends the write of CFG and, behind it, its result (R241). -/
theorem newApply_eq (s : State) :
    newApply s = { s with
      regs := { s.regs with cfg := Config.timing s.cfg.mode s.cfg.clockHz }, handle := .bound, result := some .ok,
      hist := s.hist ++ [.wrCfg (Config.timing s.cfg.mode s.cfg.clockHz), .res .ok],
      resOut := s.resOut ++ [0x00], ctl := .rest } := by
  rw [List.append_cons]
  rfl

/-- Settles O11: NEW is accepted with a frequency above 0, and each of its points is the access it is named for. -/
theorem newLatchesTheModeAndBuilds : Obligations.NewLatchesTheModeAndBuilds :=
  ⟨rfl, rfl, rfl, fun _ _ clk al pos unbound rest => exec_new pos unbound rest clk al, fun _ => rfl, fun _ => rfl,
    fun s => congrArg _ (newApply_eq s)⟩

/-- Settles O12: the result is delivered behind the command, with no access between them. -/
theorem releaseUnbindsWithNoAccess : Obligations.ReleaseUnbindsWithNoAccess := by
  intro s bound rest
  rw [exec_release bound rest, List.append_cons]
  rfl

end Sys2Proof.Machine
end

section
/-! Exceptions (R250 to R258, R270): the result rows (O36), the errors that a control point can deliver (O46), and that
in a sound state only the command stream stops a step (O50). -/

namespace Sys2Proof.Machine

/-! ## The result rows -/

/-- Settles O36: the meaning of an error row is `raise`, and its byte on RESULT is the one of R99. -/
theorem resultRowsEndTheCommand : Obligations.ResultRowsEndTheCommand := by
  refine ⟨fun _ => rfl, fun s i e b row => ?_⟩
  have delivers : exec i s = .next (raise e s) ∧ resultByte (.err e) = b := by
    simp only [List.mem_cons, List.not_mem_nil, or_false, Prod.mk.injEq] at row
    rcases row with ⟨rfl, rfl, rfl⟩ | ⟨rfl, rfl, rfl⟩ | ⟨rfl, rfl, rfl⟩ | ⟨rfl, rfl, rfl⟩ | ⟨rfl, rfl, rfl⟩ |
      ⟨rfl, rfl, rfl⟩ | ⟨rfl, rfl, rfl⟩ <;> exact ⟨rfl, rfl⟩
  obtain ⟨run, rfl⟩ := delivers
  exact run

/-! ## The errors of a control point -/

/-- Of the exits of `dispatch` only the empty final Read ends in an error (R214, R251). -/
theorem Exit.error {u t : State} {op : Operation} {e : Err} (exit : Exit u op t) (current : currentOp u = some op)
    (rest : t.ctl = .rest) (error : t.result = some (.err e)) :
    e = .overrun ∧ u.ops.getLast? = some (.read 0) := by
  cases exit with
  | empty last =>
    cases error
    exact ⟨rfl, getLast?_of_isFinal current last⟩
  | finish => cases error
  | send | stop | arm | receive | turn => cases rest

theorem dispatch_error {u t : State} {e : Err} (go : dispatch u = .next t) (rest : t.ctl = .rest)
    (error : t.result = some (.err e)) : e = .overrun ∧ u.ops.getLast? = some (.read 0) := by
  obtain ⟨v, op, adv, current, exit⟩ := dispatch_next go
  have same : v.ops = u.ops := by rw [adv.eq]
  exact same ▸ exit.error current rest error

/-- `byte_done` (R187) counts a byte and leaves the sequence as it was. -/
theorem byteDone_error {u t : State} {e : Err} (go : byteDone u = .next t) (rest : t.ctl = .rest)
    (error : t.result = some (.err e)) : e = .overrun ∧ u.ops.getLast? = some (.read 0) :=
  dispatch_error (u := { u with byteIdx := u.byteIdx + 1 }) go rest error

theorem testTargets_ne_rest {w : Wait} {p : Point} (target : p ∈ testTargets w) : p ≠ .rest :=
  List.ne_of_not_mem_cons (testTargets_away w p target)

theorem idleCond_ctl_ne_rest (s : State) : (idleCond s).ctl ≠ .rest := by
  rw [idleCond, goto_ctl]
  split
  · decide
  · split <;> decide

theorem startedCond_ctl_ne_rest (s : State) : (startedCond s).ctl ≠ .rest := by
  rw [startedCond, goto_ctl]
  split <;> decide

/-- A control point of a bus command ends it in an error where a wait aborts, or where `dispatch` meets an empty final
Read (R250, R251). -/
theorem BusCase.error {s t : State} {e : Err} (h : BusCase s t) (rest : t.ctl = .rest)
    (error : t.result = some (.err e)) :
    (∃ w, s.ctl = clearPointOf w ∧ raisedError w s.pendFlag = some e) ∨
    (e = .overrun ∧ s.ctl ∈ dispatchPoints ∧ s.ops.getLast? = some (.read 0)) := by
  cases h with
  | abort here raised =>
    cases error
    exact .inl ⟨_, here, raised⟩
  | readyPoll here _ go | readyClear here _ go | readyAck here go =>
    obtain ⟨overrun, empty⟩ := dispatch_error go rest error
    exact .inr ⟨overrun, by rw [here]; decide, empty⟩
  | sentPoll here _ go | sentClear here _ go | received here _ go =>
    obtain ⟨overrun, empty⟩ := byteDone_error go rest error
    exact .inr ⟨overrun, by rw [here]; decide, empty⟩
  | test _ _ target | ignore _ _ target => exact absurd rest (testTargets_ne_rest target)
  | @hold w => exact absurd rest (phaseOf_inBusCommand w _ (clearPointOf_mem_phaseOf w)).2.1
  | idleCond => exact absurd rest (idleCond_ctl_ne_rest s)
  | startedCond => exact absurd rest (startedCond_ctl_ne_rest s)
  | ackEn | start | address | send | arm => cases rest
  | stop => cases error

/-- The points of NEW end in `Ok` (R241). -/
theorem runPoint_new_result {p : Point} {s t : State} (new : p ∈ newPoints) (run : runPoint p s = .next t)
    (rest : t.ctl = .rest) : t.result = some .ok := by
  simp only [newPoints, List.mem_cons, List.not_mem_nil, or_false] at new
  rcases new with rfl | rfl | rfl <;> cases run
  · cases rest
  · cases rest
  · rfl

/-- Settles O46: a control point does not read `ctl`, so it is the step of a bus command that stands there. -/
theorem errorsOfEachControlPoint : Obligations.ErrorsOfEachControlPoint := by
  intro p s t e run away rest error
  rw [exec_pointInstr] at run
  by_cases new : p ∈ newPoints
  · cases (runPoint_new_result new run rest).symm.trans error
  · have busCase : BusCase (goto p s) t := bus_case ⟨away, new⟩ ((runPoint_goto away p s).trans run)
    rcases busCase.error rest error with ⟨w, here, raised⟩ | overrun
    · exact .inl ⟨w, s.pendFlag, here, rfl, raised⟩
    · exact .inr overrun

/-! ## What can stop a step -/

/-- A command that passes the checks on its own words asks for its handle and for REST, and nothing else (R101). -/
theorem exec_passes {i : Instr} (format : i.format = .h) (passes : i.failing = none) (s : State) :
    ∃ need t, exec i s = whenAccepted need s t := by
  cases i with
  | new m clk al =>
    have pos : 0 < m.frequency := Nat.pos_of_ne_zero ((failing_new_eq_none_iff m clk al).1 passes)
    exact ⟨_, execNew_frequency_pos pos clk al s⟩
  | read a n => exact ⟨_, (Targets.read n).small ((addrCheck_none_iff a).1 passes) s⟩
  | write a bs => exact ⟨_, (Targets.write bs).small ((addrCheck_none_iff a).1 passes) s⟩
  | writeRead a bs n => exact ⟨_, (Targets.writeRead bs n).small ((addrCheck_none_iff a).1 passes) s⟩
  | transaction a ops => exact ⟨_, (Targets.transaction ops).small ((addrCheck_none_iff a).1 passes) s⟩
  | release => exact ⟨_, _, rfl⟩
  | reservedOpc0 | reservedOpc7 | reservedOpc8 | reservedOpc9 | reservedOpcA | reservedOpcB | reservedOpcC
  | reservedOpcD | reservedOpcE | reservedOpcF => cases passes
  | _ => cases format

/-- Only the reserved opcodes fail `opc_known`, and their meaning is that refusal (R101). -/
theorem exec_opcKnown {i : Instr} (format : i.format = .h) (reserved : i.failing = some .opcKnown) (s : State) :
    exec i s = .refused .opcKnown := by
  cases i with
  | new m clk al =>
    have passes := (failing_new_eq_none_iff m clk al).2 (frequency_ne_zero_of_passes (.inr reserved))
    cases passes.symm.trans reserved
  | read a _ | write a _ | writeRead a _ _ | transaction a _ => exact absurd reserved (addrCheck_ne_opcKnown a)
  | release => cases reserved
  | reservedOpc0 | reservedOpc7 | reservedOpc8 | reservedOpc9 | reservedOpcA | reservedOpcB | reservedOpcC
  | reservedOpcD | reservedOpcE | reservedOpcF => rfl
  | _ => cases format

theorem whenAccepted_at_rest (need : Handle) {s : State} (rest : s.ctl = .rest) (t : State) :
    whenAccepted need s t = .next t ∨ whenAccepted need s t = .refused .handleFits := by
  by_cases handle : s.handle = need
  · exact .inl (whenAccepted_fits handle rest t)
  · exact .inr (whenAccepted_other_handle handle t)

/-- The answers to what the command stream spells, at REST (R101). -/
theorem exec_spelled {i : Instr} {ws ws' : List Word} {bs bs' : List Byte} {s : State}
    (spelled : decodeCommand ws bs = .done i ws' bs') (rest : s.ctl = .rest) :
    (∃ t, exec i s = .next t) ∨ (i.failing = some .opcKnown ∧ exec i s = .refused .opcKnown) ∨
      (i.failing = none ∧ exec i s = .refused .handleFits) := by
  have format := decodeCommand_format spelled
  rcases (spells_of_decodeCommand spelled).passes with wf | reserved
  · have passes := (wellFormed_iff i).1 wf
    obtain ⟨need, t, run⟩ := exec_passes format passes s
    rw [run]
    rcases whenAccepted_at_rest need rest t with fits | refused
    · exact .inl ⟨t, fits⟩
    · exact .inr (.inr ⟨passes, refused⟩)
  · exact .inr (.inl ⟨reserved, exec_opcKnown format reserved s⟩)

/-- Every step of a sound state, away from REST, completes (R270). -/
theorem Inv.step_completes {s : State} (inv : Inv s) (away : s.ctl ≠ .rest) : ∃ t, step s = .next t := by
  obtain ⟨t, run⟩ := inv.completes
  exact ⟨Machine.envStep t, by rw [step_at_point away, run]; rfl⟩

/-- The refusals of a step that R101 names, by what the command stream spells. -/
def StreamRefused (s : State) (r : Refusal) : Prop :=
  (∃ c, decodeCommand s.cmdIn s.wdata = .refused c ∧ r = refusalOf c) ∨
  (∃ i ws bs, decodeCommand s.cmdIn s.wdata = .done i ws bs ∧
    ((i.failing = some .opcKnown ∧ r = .opcKnown) ∨ (i.failing = none ∧ r = .handleFits)))

/-- At REST a step completes, or the command stream is refused: no fault (R101). -/
theorem step_at_rest_cases {s : State} (rest : s.ctl = .rest) :
    (∃ t, step s = .next t) ∨ ∃ r, step s = .refused r ∧ StreamRefused s r := by
  rw [step_at_rest rest]
  cases spelled : decodeCommand s.cmdIn s.wdata with
  | incomplete => exact .inl ⟨_, rfl⟩
  | refused c => exact .inr ⟨_, rfl, .inl ⟨c, spelled, rfl⟩⟩
  | done i ws bs =>
    rcases exec_spelled (s := { s with cmdIn := ws, wdata := bs }) spelled rest with
      ⟨t, run⟩ | ⟨reserved, run⟩ | ⟨passes, run⟩
    · exact .inl ⟨envStep t, congrArg settle run⟩
    · exact .inr ⟨_, congrArg settle run, .inr ⟨i, ws, bs, spelled, .inl ⟨reserved, rfl⟩⟩⟩
    · exact .inr ⟨_, congrArg settle run, .inr ⟨i, ws, bs, spelled, .inr ⟨passes, rfl⟩⟩⟩

/-- Settles O50: away from REST the control point completes, and at REST the stream alone can be refused. -/
theorem soundStatesNeverFault : Obligations.SoundStatesNeverFault := by
  intro s inv
  have answer : (∃ t, step s = .next t) ∨ ∃ r, step s = .refused r ∧ s.ctl = .rest ∧ StreamRefused s r := by
    by_cases rest : s.ctl = .rest
    · exact (step_at_rest_cases rest).imp_right fun ⟨r, refused, named⟩ => ⟨r, refused, rest, named⟩
    · exact .inl (inv.step_completes rest)
  rcases answer with ⟨t, next⟩ | ⟨r, refused, named⟩
  · simp [next]
  · rw [refused]
    exact ⟨nofun, by rintro _ ⟨rfl⟩; exact named⟩

end Sys2Proof.Machine
end

section
/-! The worked streams of 95_test_vectors.md section 2 (O4): a stream that spells a command is decoded to it, and the checks
of R101 on a header, a descriptor, a mode word and a frequency refuse every stream that fails them, whatever follows. -/

namespace Sys2Proof

theorem Spells.decodes {i : Instr} {ws ws' : List Word} {bs bs' : List Byte} (spelled : Spells i ws ws' bs bs')
    (format : i.format = .h) : decodeCommand ws bs = .done i ws' bs' := by
  obtain ⟨rfl, rfl, fits, passes⟩ := spelled
  exact decodeUndoesEncodeOnCommands i ws' bs' format passes fits

/-! ## The checks on a header -/

section
variable {h : Word}

theorem decodeAddressed_addr7 (zero : headerZero h = 0) (high : (headerAddr h).getLsbD 7 = true)
    (next : Byte → Decoded) : decodeAddressed h next = .refused .addr7 := by
  simp only [decodeAddressed, zero, addrCheck, high, if_true]

/-- The opcode map of R100 on the commands with an address operand. -/
theorem decodeCommand_addressed (opc : (headerOpc h).toNat ∈ [2, 3, 4, 5]) (ws : List Word) (bs : List Byte) :
    ∃ next, decodeCommand (h :: ws) bs = decodeAddressed h next := by
  simp only [List.mem_cons, List.not_mem_nil, or_false] at opc
  rcases opc with opc | opc | opc | opc <;> simp only [decodeCommand, opc] <;> exact ⟨_, rfl⟩

/-- The opcode map of R100 on NEW and RELEASE. -/
theorem decodeCommand_unaddressed (opc : (headerOpc h).toNat ∈ [1, 6]) (ws : List Word) (bs : List Byte) :
    ∃ next, decodeCommand (h :: ws) bs = decodeUnaddressed h next := by
  simp only [List.mem_cons, List.not_mem_nil, or_false] at opc
  rcases opc with opc | opc <;> simp only [decodeCommand, opc] <;> exact ⟨_, rfl⟩

theorem decodeCommand_addressed_hdrZero (opc : (headerOpc h).toNat ∈ [2, 3, 4, 5]) (bad : headerZero h ≠ 0)
    (ws : List Word) (bs : List Byte) : decodeCommand (h :: ws) bs = .refused .hdrZero := by
  obtain ⟨next, eq⟩ := decodeCommand_addressed opc ws bs
  exact eq.trans (if_neg bad)

theorem decodeCommand_unaddressed_hdrZero (opc : (headerOpc h).toNat ∈ [1, 6])
    (bad : ¬ (headerZero h = 0 ∧ headerAddr h = 0)) (ws : List Word) (bs : List Byte) :
    decodeCommand (h :: ws) bs = .refused .hdrZero := by
  obtain ⟨next, eq⟩ := decodeCommand_unaddressed opc ws bs
  exact eq.trans (if_neg bad)

theorem decodeCommand_addr7 (opc : (headerOpc h).toNat ∈ [2, 3, 4, 5]) (zero : headerZero h = 0)
    (high : (headerAddr h).getLsbD 7 = true) (ws : List Word) (bs : List Byte) :
    decodeCommand (h :: ws) bs = .refused .addr7 := by
  obtain ⟨next, eq⟩ := decodeCommand_addressed opc ws bs
  exact eq.trans (decodeAddressed_addr7 zero high next)
end

/-! ## The checks on the words behind a header -/

theorem decodeWrite_dirFits (a : Byte) (n : Nat) (ws : List Word) (bs : List Byte) :
    decodeWrite a (descWord .read n :: ws) bs = .refused .dirFits := by
  simp only [decodeWrite, descDir_descWord]

theorem decodeWriteRead_dirFits (a : Byte) (n : Nat) (ws : List Word) (bs : List Byte) :
    decodeWriteRead a (descWord .read n :: ws) bs = .refused .dirFits := by
  simp only [decodeWriteRead, descDir_descWord]

theorem decodeNew_modeZero {m : Word} (bad : modeWordZero m = false) (ws : List Word) (bs : List Byte) :
    decodeNew (m :: ws) bs = .refused .modeZero := by
  simp [decodeNew, bad]

theorem decodeNew_freqPos {m : Word} (zero : modeWordZero m = true) (cl ch : Word) (ws : List Word) (bs : List Byte) :
    decodeNew (m :: 0 :: 0 :: cl :: ch :: ws) bs = .refused .freqPos := by
  simp [decodeNew, zero, joinWords]

/-- Settles O4, stream by stream: K1 to K13 spell their commands, and each of X3 to X11 meets first the check it fails. -/
theorem streamWordsDecodeAsListed : Obligations.StreamWordsDecodeAsListed :=
  ⟨Spells.decodes ⟨rfl, rfl, rfl, .inl rfl⟩ rfl,
    Spells.decodes ⟨rfl, rfl, rfl, .inl rfl⟩ rfl,
    Spells.decodes ⟨rfl, rfl, rfl, .inl rfl⟩ rfl,
    Spells.decodes ⟨rfl, rfl, rfl, .inl rfl⟩ rfl,
    Spells.decodes ⟨rfl, rfl, rfl, .inl rfl⟩ rfl,
    Spells.decodes ⟨rfl, rfl, rfl, .inl rfl⟩ rfl,
    decodeCommand_release [] [],
    decodeCommand_addressed_hdrZero (by decide) (by decide) _ _,
    decodeCommand_unaddressed_hdrZero (by decide) (by decide) _ _,
    decodeCommand_addr7 (by decide) (by decide) (by decide) _ _,
    (decodeCommand_write (a := 0x50) rfl _ _).trans (decodeWrite_dirFits 0x50 1 _ _),
    (decodeCommand_writeRead (a := 0x68) rfl _ _).trans (decodeWriteRead_dirFits 0x68 1 _ _),
    (decodeCommand_new _ _).trans (decodeNew_modeZero (by decide) _ _),
    (decodeCommand_new _ _).trans (decodeNew_freqPos (by decide) _ _ _ _)⟩

end Sys2Proof
end
